-- ==== Sys2Proof/Word.lean ====
section
/-! DEFINITION. The bit vectors of the block: spec 00_scope.md R7 (widths), R9 (bit 0 is the least significant bit) and R10
(all values unsigned). -/

namespace Sys2Proof

/-- A byte of either stream: 8 bits, unsigned (R7; 20_memory.md R48: "The only unit of transfer is the byte"). -/
abbrev Byte := BitVec 8

/-- The code of one input bit: 4 bits (30_encoding.md R60). -/
abbrev Symbol := BitVec 4

/-- A bit-pair index, 0 to 3 (00_scope.md R13, 10_state.md R24). -/
abbrev PairIndex := BitVec 2

/-- The control word `cw[5:0]` (30_encoding.md R66). -/
abbrev ControlWord := BitVec 6

end Sys2Proof
end

