-- ==== Sys2Proof/Config.lean ====
section
/-! DEFINITION. What is fixed for the block (00_scope.md R7), what its environment may choose (R8), the port vectors of
10_state.md R20, and the free values: constants without a body, of which nothing can be proved but their type. -/

namespace Sys2Proof

/-- The values the environment drives on the input ports during one cycle (10_state.md R20). -/
structure CycleInputs where
  /-- synchronous reset, active high -/
  rst : Bool
  /-- upstream offers the byte on `inData` this cycle -/
  inValid : Bool
  /-- the offered input byte -/
  inData : Byte
  /-- downstream takes `out_data` at this cycle's edge -/
  outReady : Bool
  deriving DecidableEq, Repr, Inhabited

/-- The values of the output ports during one cycle (10_state.md R20). -/
structure CycleOutputs where
  /-- the block will take the offered byte at this cycle's edge -/
  inReady : Bool
  /-- the byte on `outData` is a valid encoded byte this cycle -/
  outValid : Bool
  /-- the encoded byte -/
  outData : Byte
  deriving DecidableEq, Repr

namespace Config

/-- Bytes per pixel: G, R, B (R7). -/
def bytesPerPixel : Nat := 3

/-- Output bytes per input byte (R7). -/
def outputsPerInput : Nat := 4

/-- Output bytes per pixel (R7). -/
def outputsPerPixel : Nat := 12

/-- FREE VALUE. The inputs of a cycle for which State lists none, applied to the number of the cycle (log entry 2). -/
opaque freeInputs : Nat → CycleInputs

/-- FREE VALUE. `hold` at power-on, before the first RESET (70_reset_and_hazards.md R150, U2; log entry 9). -/
opaque powerOnHold : Byte

/-- FREE VALUE. `p` at power-on (R150, U2; log entry 9). -/
opaque powerOnP : PairIndex

/-- FREE VALUE. `full` at power-on (R150, U2; log entry 9). -/
opaque powerOnFull : Bool

end Config

/-- The environment's parameters, "A model of the block's environment takes them as arguments" (00_scope.md R8). None of them is
seen by the block. Rates are in bits per second, times in any unit the user of the structure fixes (log entry 15). -/
structure EnvParams where
  /-- `N_PIXELS`, the pixel count of one frame -/
  nPixels : Nat
  /-- `RESET_PREAMBLE_BYTES`, 80 in the source, a parameter here (D17) -/
  resetPreambleBytes : Nat
  /-- `SPI_BIT_RATE`, OPEN (D18) -/
  spiBitRate : Nat
  /-- `LATCH_GAP`, OPEN (D18) -/
  latchGap : Nat
  deriving DecidableEq, Repr

end Sys2Proof
end

