-- ==== Sys2Proof/Machine/State.lean ====
section
/-! DEFINITION. The state of the block (10_state.md), as plain data. `hold`, `p` and `full` are all the state the spec gives the
block (R23 to R25, R32); the other fields are the model's own: the values the environment drives and what passed the ports. -/

namespace Sys2Proof.Machine

/-- What passed over the ports at a clock edge, as the environment sees it (41_stream_operations.md R102; log entry 3). -/
inductive Event where
  /-- a cycle with `rst = 1` -/
  | reset
  /-- the input handshake fired; the block took `b` -/
  | accept (b : Byte)
  /-- the output handshake fired; the downstream took `b` -/
  | emit (b : Byte)
  deriving DecidableEq, Repr

/-- The block and the environment it is joined to. -/
structure State where
  /-- the input byte being encoded (R23) -/
  hold : Byte
  /-- the bit-pair index of the next output byte (R24) -/
  p : PairIndex
  /-- `hold` holds a byte whose pairs `p` to 3 are not yet all emitted (R25) -/
  full : Bool
  /-- the input ports' values in the current cycle (first) and in the cycles to come; past the end they are free values
  (model's own, log entry 1) -/
  stimulus : List CycleInputs
  /-- the number of the current cycle, to which free inputs are applied (model's own, log entry 2) -/
  cycle : Nat
  /-- what passed the ports, newest first (model's own, log entry 3) -/
  events : List Event
  deriving DecidableEq, Repr

/-- Reasons for a fault. There is none: "No step faults, sticks or refuses" (41_stream_operations.md R103), "The block raises no
synchronous exception" (60_exceptions.md R130). -/
inductive Fault where
  deriving DecidableEq, Repr

/-- Reasons for a refusal. -/
inductive Refusal where
  /-- Raised by `exec` for an operation that has no meaning yet; safe. No arm raises it: every operation has its meaning. -/
  | notModelled (mnemonic : String)
  deriving DecidableEq, Repr

/-- The state after a RESET (10_state.md R33), with no inputs placed, cycle 0 and nothing recorded (log entries 1, 2, 3). -/
def State.reset : State where
  hold := 0x00
  p := 0
  full := false
  stimulus := []
  cycle := 0
  events := []

end Sys2Proof.Machine
end

