-- ==== Sys2Proof/Machine/Operands.lean ====
section
/-! DEFINITION. Operands: the bits of a pair (30_encoding.md R70), the symbol lookup, packing and byte encoding
(40_symbol_encode.md R80 to R83), and the inputs of the current cycle (41_stream_operations.md R100). -/

namespace Sys2Proof.Machine

/-- The high bit of pair `p`: `b[7 - 2*p]` (R70, 20_memory.md R42). -/
def pairHigh (b : Byte) (p : PairIndex) : Bool := b.getLsbD (7 - 2 * p.toNat)

/-- The low bit of pair `p`: `b[6 - 2*p]` (R70, 20_memory.md R42). -/
def pairLow (b : Byte) (p : PairIndex) : Bool := b.getLsbD (6 - 2 * p.toNat)

/-- `SYM(x)` (40_symbol_encode.md R80), the hardwired table of 10_state.md R29. -/
def sym (x : Bool) : Symbol := if x then 0b1100 else 0b1000

/-- `PACK(hs, ls) = {hs, ls}` (R81). -/
def pack (hs ls : Symbol) : Byte := (hs.setWidth 8 <<< 4) ||| ls.setWidth 8

/-- `ENC_PAIR(b, p)` (R82). -/
def encPair (b : Byte) (p : PairIndex) : Byte := pack (sym (pairHigh b p)) (sym (pairLow b p))

/-- `ENC_BYTE(b)`, the four output bytes in the order of emission (R83, 20_memory.md R45). -/
def encByte (b : Byte) : List Byte := [encPair b 0, encPair b 1, encPair b 2, encPair b 3]

/-- `W(b)`: `ENC_BYTE(b)` as one 32-bit word, "whose most significant byte is the first output byte" (R83). -/
def encWord (b : Byte) : BitVec 32 := encPair b 0 ++ encPair b 1 ++ encPair b 2 ++ encPair b 3

/-- The four pair indices in the order of emission (R42, R45). -/
def pairIndices : List PairIndex := [0, 1, 2, 3]

/-- The input ports' values during the current cycle: the listed ones, or free ones (log entries 1, 2). -/
def State.inputs (s : State) : CycleInputs :=
  match s.stimulus with
  | i :: _ => i
  | [] => Config.freeInputs s.cycle

end Sys2Proof.Machine
end

