-- ==== Sys2Proof/Machine/Ops.lean ====
section
/-! DEFINITION. The named operations over the state that the meanings share. The block has no memory (10_state.md R31) and no
numbered registers (R21), so these are updates of `hold`, `p` and `full`. It takes no exception and returns from none
(60_exceptions.md R130, R135, R136): "RESET is the only operation that changes control state in a way other than the normal
sequence, and it saves nothing" (R135), so the one shared operation in the place of exception entry is `toResetState`. -/

namespace Sys2Proof.Machine

/-- RESET's effect: the values of 10_state.md R33 (41_stream_operations.md R104). Nothing is saved and nothing is emitted. -/
def State.toResetState (s : State) : State :=
  { s with hold := 0x00, p := 0, full := false, events := .reset :: s.events }

/-- Take the byte `b` from `in_data`: "`hold <- in_data; p <- 0; full <- 1`" (R106). -/
def State.takeByte (s : State) (b : Byte) : State :=
  { s with hold := b, p := 0, full := true, events := .accept b :: s.events }

/-- The downstream takes `out_data = ENC_PAIR(hold, p)` (R108, R109). -/
def State.deliverByte (s : State) : State :=
  { s with events := .emit (encPair s.hold s.p) :: s.events }

/-- "`p <- p + 1`" (R108), at the width of `p`. -/
def State.advancePair (s : State) : State :=
  { s with p := s.p + 1 }

/-- "`p <- 0; full <- 0`" (R109); `hold` keeps its value (10_state.md R23). -/
def State.emptyBlock (s : State) : State :=
  { s with p := 0, full := false }

/-- The edge that closes the cycle brings the next cycle's inputs (41_stream_operations.md R100). -/
def State.nextCycle (s : State) : State :=
  { s with stimulus := s.stimulus.tail, cycle := s.cycle + 1 }

/-- The state at power-on, before the first RESET: every element of the block a free draw (70_reset_and_hazards.md R150, U2; log
entry 9), with the inputs the environment will drive. -/
def State.powerOn (stimulus : List CycleInputs) : State where
  hold := Config.powerOnHold
  p := Config.powerOnP
  full := Config.powerOnFull
  stimulus := stimulus
  cycle := 0
  events := []

end Sys2Proof.Machine
end

