-- ==== Sys2Proof/Machine/Emit.lean ====
section
/-! DEFINITION. The meanings of EMIT, one per row of the opcode table, and of EMIT_LAST (41_stream_operations.md R108, R109). Each
delivers `ENC_PAIR(hold, p)` of the state before the edge, then moves the pair index. The row fixes which `p` the cycle has; the
effect is R103's, written with `p` itself (log entry 8). -/

namespace Sys2Proof.Machine

/-- EMIT.P0: "downstream takes out_data = ENC_PAIR(hold, p)"; "`p <- p + 1`" (R108). -/
def execEmitP0 (s : State) : Host.Outcome State Fault Refusal := .next s.deliverByte.advancePair

/-- EMIT.P1: as EMIT.P0, in a cycle with `p = 1` (R108). -/
def execEmitP1 (s : State) : Host.Outcome State Fault Refusal := .next s.deliverByte.advancePair

/-- EMIT.P2: as EMIT.P0, in a cycle with `p = 2` (R108). -/
def execEmitP2 (s : State) : Host.Outcome State Fault Refusal := .next s.deliverByte.advancePair

/-- EMIT_LAST: "downstream takes out_data = ENC_PAIR(hold, 3)"; "`p <- 0; full <- 0`" (R109). -/
def execEmitLast (s : State) : Host.Outcome State Fault Refusal := .next s.deliverByte.emptyBlock

end Sys2Proof.Machine
end

