-- ==== Sys2Proof/Machine/Load.lean ====
section
/-! DEFINITION. The meaning of LOAD (41_stream_operations.md R106). -/

namespace Sys2Proof.Machine

/-- LOAD: "`hold <- in_data; p <- 0; full <- 1`" (R106). "No input value is rejected". -/
def execLoad (inData : Byte) (s : State) : Host.Outcome State Fault Refusal := .next (s.takeByte inData)

end Sys2Proof.Machine
end

