-- ==== Sys2Proof/Machine/Quiet.lean ====
section
/-! DEFINITION. The meanings of IDLE and STALL, the block's "only quiescent condition" (41_stream_operations.md R105, R107;
60_exceptions.md R143). -/

namespace Sys2Proof.Machine

/-- IDLE: "(no state change)" (R105). -/
def execIdle (s : State) : Host.Outcome State Fault Refusal := .next s

/-- STALL: "(no state change)" (R107). The byte stays offered and nothing is accepted. -/
def execStall (s : State) : Host.Outcome State Fault Refusal := .next s

end Sys2Proof.Machine
end

