-- ==== Sys2Proof/Machine/Reset.lean ====
section
/-! DEFINITION. The meaning of RESET (41_stream_operations.md R104). -/

namespace Sys2Proof.Machine

/-- RESET: "`hold <- 0x00; p <- 0; full <- 0`" (R104). "`in_valid`, `in_data` and `out_ready` are ignored". -/
def execReset (s : State) : Host.Outcome State Fault Refusal := .next s.toResetState

end Sys2Proof.Machine
end

