-- ==== Sys2Proof/Syntax.lean ====
section
/-! DEFINITION. The cycle operations of the block, its "instructions" (41_stream_operations.md, D20): one constructor per row of
spec/opcode_table.json. An operation carries the operands its rule gives it: LOAD its byte, the others none ("`in_data` is not
part of `cw`. It is an operand of LOAD only", 30_encoding.md R66). -/

namespace Sys2Proof

/-- A cycle operation (30_encoding.md R67). -/
inductive Instr where
  /-- RESET (R104): return to the empty state. -/
  | reset
  /-- IDLE (R105): empty, nothing offered. -/
  | idle
  /-- LOAD (R106): accept the input byte `inData`. -/
  | load (inData : Byte)
  /-- STALL (R107): holding a byte, downstream not ready. -/
  | stall
  /-- EMIT, row EMIT.P0 (R108): deliver bit-pair 0 and advance. -/
  | emitP0
  /-- EMIT, row EMIT.P1 (R108): deliver bit-pair 1 and advance. -/
  | emitP1
  /-- EMIT, row EMIT.P2 (R108): deliver bit-pair 2 and advance. -/
  | emitP2
  /-- EMIT_LAST (R109): deliver bit-pair 3 and empty the block. -/
  | emitLast
  deriving DecidableEq, Repr

end Sys2Proof
end

