-- ==== Sys2Proof/Machine/Dispatch.lean ====
section
/-! DEFINITION. One arm per cycle operation: the `case` of 41_stream_operations.md R103. -/

namespace Sys2Proof.Machine

def exec (i : Instr) (s : State) : Host.Outcome State Fault Refusal :=
  match i with
  | .reset => Sys2Proof.Machine.execReset s
  | .idle => Sys2Proof.Machine.execIdle s
  | .load inData => Sys2Proof.Machine.execLoad inData s
  | .stall => Sys2Proof.Machine.execStall s
  | .emitP0 => Sys2Proof.Machine.execEmitP0 s
  | .emitP1 => Sys2Proof.Machine.execEmitP1 s
  | .emitP2 => Sys2Proof.Machine.execEmitP2 s
  | .emitLast => Sys2Proof.Machine.execEmitLast s

end Sys2Proof.Machine
end

