-- ==== Sys2Proof/WellFormed.lean ====
section
/-! DEFINITION. Well-formedness. An operation has no ill-formed form: its one operand is a whole byte and "All 256 values are
legal" (30_encoding.md R65), "No control word is illegal or reserved" (R71). What can be ill-formed is what the ENVIRONMENT
presents as a frame (20_memory.md R49, 70_reset_and_hazards.md R161). -/

namespace Sys2Proof

/-- Every operation is well formed (30_encoding.md R65, R71); the match names each constructor, so that an operation added
later must be judged here. -/
def Instr.wf : Instr → Bool
  | .reset => true
  | .idle => true
  | .load _ => true
  | .stall => true
  | .emitP0 => true
  | .emitP1 => true
  | .emitP2 => true
  | .emitLast => true

/-- A frame of `nPixels` pixels is presented as "exactly `3 × N_PIXELS` bytes" (70_reset_and_hazards.md R161). The block neither
needs nor checks it (60_exceptions.md R131): it is a premise of claims about frames. -/
def frameWf (nPixels : Nat) (stream : List Byte) : Bool :=
  stream.length == Config.bytesPerPixel * nPixels

end Sys2Proof
end

