-- ==== Sys2Proof/Decode.lean ====
section
/-! DEFINITION. The control word and the operation decode (30_encoding.md R66, R67), the opcode table as rows of mask and match,
the encoder, and the byte form in which an operation stands as a word of spec/opcode_table.json (log entry 5). -/

namespace Sys2Proof

/-- The control word `{rst, full, in_valid, out_ready, p}`, the first field most significant (30_encoding.md R66). -/
def controlWord (rst full inValid outReady : Bool) (p : PairIndex) : ControlWord :=
  BitVec.ofBool rst ++ BitVec.ofBool full ++ BitVec.ofBool inValid ++ BitVec.ofBool outReady ++ p

/-- `cw[5]` (R66). -/
def cwRst (cw : ControlWord) : Bool := cw.getLsbD 5

/-- `cw[4]` (R66). -/
def cwFull (cw : ControlWord) : Bool := cw.getLsbD 4

/-- `cw[3]` (R66). -/
def cwInValid (cw : ControlWord) : Bool := cw.getLsbD 3

/-- `cw[2]` (R66). -/
def cwOutReady (cw : ControlWord) : Bool := cw.getLsbD 2

/-- `cw[1:0]` (R66). -/
def cwP (cw : ControlWord) : PairIndex := cw.extractLsb' 0 2

/-- The operation of a cycle, from its control word and the byte on `in_data` (30_encoding.md R67). It is total, as R68 says it is,
and written in the order of priority of 60_exceptions.md R133; that it is the row of R67's table is a statement of the model,
not its definition. -/
def decodeControl (cw : ControlWord) (inData : Byte) : Instr :=
  if cwRst cw then .reset
  else if cwFull cw then
    if cwOutReady cw then
      if cwP cw = 0 then .emitP0
      else if cwP cw = 1 then .emitP1
      else if cwP cw = 2 then .emitP2
      else .emitLast
    else .stall
  else if cwInValid cw then .load inData
  else .idle

/-! ### The opcode table -/

/-- One row of the table of 30_encoding.md R67: the row matches `cw` when `cw &&& mask = value`. -/
structure OpcodeRow where
  mnemonic : String
  mask : ControlWord
  value : ControlWord
  deriving DecidableEq, Repr

/-- A control word matches a row (R67: "An `x` matches either value"). -/
def OpcodeRow.matchesWord (r : OpcodeRow) (cw : ControlWord) : Bool := cw &&& r.mask == r.value

/-- The row of an operation (R67; mnemonics as spec/opcode_table.json has them). -/
def Instr.row : Instr → OpcodeRow
  | .reset => ⟨"RESET", 0b100000, 0b100000⟩
  | .idle => ⟨"IDLE", 0b111000, 0b000000⟩
  | .load _ => ⟨"LOAD", 0b111000, 0b001000⟩
  | .stall => ⟨"STALL", 0b110100, 0b010000⟩
  | .emitP0 => ⟨"EMIT.P0", 0b110111, 0b010100⟩
  | .emitP1 => ⟨"EMIT.P1", 0b110111, 0b010101⟩
  | .emitP2 => ⟨"EMIT.P2", 0b110111, 0b010110⟩
  | .emitLast => ⟨"EMIT_LAST", 0b110111, 0b010111⟩

/-- The table of R67, in its order. -/
def opcodeTable : List OpcodeRow :=
  [Instr.row .reset, Instr.row .idle, Instr.row (.load 0), Instr.row .stall,
   Instr.row .emitP0, Instr.row .emitP1, Instr.row .emitP2, Instr.row .emitLast]

/-! ### The byte form -/

/-- Why bytes are not an operation of the block. The hardware has neither case: its control word is six wires, all 64 values of
which are operations (R68). Both belong to the byte form alone (log entry 5). -/
inductive DecodeError where
  /-- fewer than two bytes -/
  | truncated
  /-- bits 7:6 of the first byte are not 0, so it is no 6-bit control word -/
  | notAControlWord
  deriving DecidableEq, Repr

/-- Read one operation from bytes: the control word in bits 5:0 of the first byte, `in_data` in the second (log entry 5). The rest
of the bytes is returned. -/
def decode : List Byte → Except DecodeError (Instr × List Byte)
  | c :: d :: rest =>
    if c.extractLsb' 6 2 = 0 then .ok (decodeControl (c.extractLsb' 0 6) d, rest)
    else .error .notAControlWord
  | _ => .error .truncated

/-- The `in_data` operand of an operation; the byte of an operation that has none is `0x00`. -/
def Instr.operandByte : Instr → Byte
  | .load b => b
  | .reset => 0
  | .idle => 0
  | .stall => 0
  | .emitP0 => 0
  | .emitP1 => 0
  | .emitP2 => 0
  | .emitLast => 0

/-- The words of an operation: its row's pattern with every `x` bit 0 (log entry 6), then its operand byte. -/
def encode (i : Instr) : List Byte := [i.row.value.setWidth 8, i.operandByte]

/-- The operation of a word numbered as spec/opcode_table.json numbers it, `nbits` bits of it given and the rest 0: bits 7:0 are the
first byte, bits 15:8 the second (log entry 5). `none` for a word that is no operation. -/
def decodeTableWord (nbits w : Nat) : Option Instr :=
  match decode [BitVec.ofNat 8 (w % 2 ^ nbits), BitVec.ofNat 8 (w % 2 ^ nbits / 256)] with
  | .ok (i, _) => if w % 2 ^ nbits < 65536 then some i else none
  | .error _ => none

end Sys2Proof
end

