-- ==== Sys2Proof/Machine/Flags.lean ====
section
/-! DEFINITION. The block "has no condition codes or flags. Its only status bit is `full`" (10_state.md R27). This file holds how
`full` is seen from outside: the output equations and the handshakes (41_stream_operations.md R101, R102), and the control word it
enters (30_encoding.md R66). -/

namespace Sys2Proof.Machine

/-- `in_ready = ¬rst ∧ ¬full` (R101). -/
def inReady (rst full : Bool) : Bool := !rst && !full

/-- `out_valid = ¬rst ∧ full` (R101). -/
def outValid (rst full : Bool) : Bool := !rst && full

/-- The outputs of the current cycle: "combinational functions of the state and of `rst` only" (R101, R116). `outData` is driven in
every cycle; it means something only with `outValid` (70_reset_and_hazards.md R160, log entry 13). -/
def State.outputs (s : State) : CycleOutputs where
  inReady := Machine.inReady s.inputs.rst s.full
  outValid := Machine.outValid s.inputs.rst s.full
  outData := encPair s.hold s.p

/-- `accept = in_valid ∧ in_ready` (R102). -/
def State.accept (s : State) : Bool := s.inputs.inValid && s.outputs.inReady

/-- `emit = out_valid ∧ out_ready` (R102). -/
def State.emit (s : State) : Bool := s.outputs.outValid && s.inputs.outReady

/-- The control word of the current cycle (30_encoding.md R66). -/
def State.cw (s : State) : ControlWord :=
  controlWord s.inputs.rst s.full s.inputs.inValid s.inputs.outReady s.p

/-- The operation of the current cycle (30_encoding.md R67, 41_stream_operations.md R103). -/
def State.operation (s : State) : Instr := decodeControl s.cw s.inputs.inData

end Sys2Proof.Machine
end

