-- ==== Sys2Proof/Machine/Step.lean ====
section
/-! DEFINITION. The step (41_stream_operations.md R100, R103): one clock cycle. -/

namespace Sys2Proof.Machine

/-- One cycle: the operation its control word selects is performed, and the edge brings the next cycle's inputs (R103). -/
def step (s : State) : Host.Outcome State Fault Refusal :=
  match exec s.operation s with
  | .next t => .next t.nextCycle
  | .fault r => .fault r
  | .refused r => .refused r

/-- Present the operation of a table word to the next step. The machine fetches nothing: the operation of a cycle is selected by
three inputs and three state bits. So the state bits `full` and `p` take the word's values, and the inputs of the next cycle are the
word's `rst`, `in_valid` and `out_ready`, with the word's second byte on `in_data` (log entries 5, 7). `hold`, the inputs of later
cycles, the cycle number and the record are as before. -/
def State.withFetchWord (s : State) (nbits w : Nat) : State :=
  let cw : ControlWord := BitVec.ofNat 6 (w % 2 ^ nbits)
  let inputs : CycleInputs :=
    { rst := cwRst cw, inValid := cwInValid cw, inData := BitVec.ofNat 8 (w % 2 ^ nbits / 256), outReady := cwOutReady cw }
  { s with full := cwFull cw, p := cwP cw, stimulus := inputs :: s.stimulus.tail }

end Sys2Proof.Machine
end

