-- ==== Sys2Proof/Machine/Buffers.lean ====
section
/-! DEFINITION. The buffer-level functions (40_symbol_encode.md R84, R85) and the checker's inverses (R88 to R90). The block does
not run them; its observation is stated against them. -/

namespace Sys2Proof.Machine

/-- A code byte: `(o & 0xBB) = 0x88` (30_encoding.md R64). -/
def isCodeByte (o : Byte) : Bool := o &&& 0xBB == 0x88

/-- `ENC_PIXEL(g, r, bl)` (R84). -/
def encPixel (g r bl : Byte) : List Byte := encByte g ++ encByte r ++ encByte bl

/-- `MemRead(buf, k)`, byte `k` of a byte sequence (00_scope.md R12); `none` past its end. -/
def memRead (buf : List Byte) (k : Nat) : Option Byte := buf[k]?

/-- The `count` bytes of `buf` from index `k` on; `none` if one is not there. -/
def readBytes (buf : List Byte) (k : Nat) : Nat → Option (List Byte)
  | 0 => some []
  | count + 1 =>
    match memRead buf k, readBytes buf (k + 1) count with
    | some b, some bs => some (b :: bs)
    | _, _ => none

/-- `ENC_BUF(pixels, n)`: the concatenation of `ENC_BYTE(MemRead(pixels, k))` for `k` in `0 .. 3n - 1` (R85). With fewer than
`3n` bytes "the precondition is broken and the function is not defined": it is refused, `none` (U1; log entry 10). -/
def encBuf (pixels : List Byte) (n : Nat) : Option (List Byte) :=
  match readBytes pixels 0 (Config.bytesPerPixel * n) with
  | some bytes => some (bytes.flatMap encByte)
  | none => none

/-- `DEC_NIBBLE(s)` (R88). -/
def decNibble (s : Symbol) : Option Bool :=
  if s = 0b1000 then some false
  else if s = 0b1100 then some true
  else none

/-- `DEC_BYTE(o)`: the pair's high and low bit (R89). -/
def decByte (o : Byte) : Option (Bool × Bool) :=
  match decNibble (o.extractLsb' 4 4), decNibble (o.extractLsb' 0 4) with
  | some hb, some lb => some (hb, lb)
  | _, _ => none

/-- The byte whose pair `p` is the `p`-th of the four: "`byte[7 - 2*p] = d.high; byte[6 - 2*p] = d.low`" (R90). -/
def byteOfPairs (d0 d1 d2 d3 : Bool × Bool) : Byte :=
  BitVec.ofBool d0.1 ++ BitVec.ofBool d0.2 ++ BitVec.ofBool d1.1 ++ BitVec.ofBool d1.2 ++
  BitVec.ofBool d2.1 ++ BitVec.ofBool d2.2 ++ BitVec.ofBool d3.1 ++ BitVec.ofBool d3.2

/-- The loop of `DEC_BUF`: four output bytes give one input byte (R90). -/
def decBytes : List Byte → Option (List Byte)
  | [] => some []
  | e0 :: e1 :: e2 :: e3 :: rest =>
    match decByte e0, decByte e1, decByte e2, decByte e3, decBytes rest with
    | some d0, some d1, some d2, some d3, some bytes => some (byteOfPairs d0 d1 d2 d3 :: bytes)
    | _, _, _, _, _ => none
  | _ => none

/-- `DEC_BUF(e)` (R90): `none` unless the length is a whole number of pixels and every byte is a code byte. -/
def decBuf (e : List Byte) : Option (List Byte) :=
  if e.length % Config.outputsPerPixel = 0 then decBytes e else none

end Sys2Proof.Machine
end

