-- ==== Sys2Proof/Machine/Stimulus.lean ====
section
/-! DEFINITION. The stimulus notation of 30_encoding.md R69: cycle statements, pseudo-statements and their expansion. -/

namespace Sys2Proof.Machine

/-- A cycle statement (R69). -/
inductive Statement where
  | rst
  | nop
  | put (b : Byte)
  | get
  | putGet (b : Byte)
  deriving DecidableEq, Repr

/-- The four inputs a statement fixes, in the table's order (R69). -/
def Statement.inputs : Statement → CycleInputs
  | .rst => ⟨true, false, 0x00, false⟩
  | .nop => ⟨false, false, 0x00, false⟩
  | .put b => ⟨false, true, b, false⟩
  | .get => ⟨false, false, 0x00, true⟩
  | .putGet b => ⟨false, true, b, true⟩

/-- A stimulus program with pseudo-statements (R69). A list of statements is written with `empty` and `seq` (log entry 16). -/
inductive Program where
  | empty
  | stmt (s : Statement)
  | seq (first rest : Program)
  /-- `REPEAT n { body }` -/
  | repeated (n : Nat) (body : Program)
  /-- `BYTE b` -/
  | byte (b : Byte)
  /-- `PIXEL g, r, bl` -/
  | pixel (g r bl : Byte)
  deriving DecidableEq, Repr

/-- The expansion of `BYTE b`: `PUT b; GET; GET; GET; GET` (R69). -/
def byteStatements (b : Byte) : List Statement := [.put b, .get, .get, .get, .get]

/-- The statements a program stands for, in order (R69). -/
def Program.expand : Program → List Statement
  | .empty => []
  | .stmt s => [s]
  | .seq first rest => first.expand ++ rest.expand
  | .repeated n body => (List.replicate n body.expand).flatten
  | .byte b => byteStatements b
  | .pixel g r bl => byteStatements g ++ byteStatements r ++ byteStatements bl

/-- The state with a program's inputs placed as those of the cycles to come (log entry 1). -/
def State.withProgram (s : State) (prog : Program) : State :=
  { s with stimulus := prog.expand.map Statement.inputs }

end Sys2Proof.Machine
end

