-- ==== Sys2Proof/Machine/Environment.lean ====
section
/-! DEFINITION. The block's environment, as far as the rules describe it: the stream of a frame (20_memory.md R40, R41), the bits
on the line (R46, R47), the bytes of one attempt on the bus (70_reset_and_hazards.md R154, R155) and the conditions for feeding the
serialiser (R159). None of it is part of the block; the step does not use it (log entries 14, 15). -/

namespace Sys2Proof.Machine

/-- A pixel: "ordered triple of unsigned 8-bit channel values (green, red, blue)" (00_scope.md glossary). -/
structure Pixel where
  g : Byte
  r : Byte
  b : Byte
  deriving DecidableEq, Repr

/-- The channel bytes of a pixel in the order `c = 0, 1, 2` (20_memory.md R40). -/
def Pixel.channels (px : Pixel) : List Byte := [px.g, px.r, px.b]

/-- The byte stream of a frame: byte `3i + c` is channel `c` of pixel `i` (20_memory.md R41). -/
def frameStream (pixels : List Pixel) : List Byte := pixels.flatMap Pixel.channels

/-- The stimulus program that presents a frame with no stalls: one `PIXEL` statement a pixel (30_encoding.md R69). -/
def frameProgram : List Pixel → Program
  | [] => .empty
  | px :: rest => .seq (.pixel px.g px.r px.b) (frameProgram rest)

/-! ### The line (20_memory.md R46, R47; 40_symbol_encode.md R91) -/

/-- The bits of a byte as the serialiser must send them: "bit 7, then 6, down to 0" (R46). -/
def msbFirst (b : Byte) : List Bool := [7, 6, 5, 4, 3, 2, 1, 0].map b.getLsbD

/-- The wrong order of 70_reset_and_hazards.md R158: bit 0 first. -/
def lsbFirst (b : Byte) : List Bool := [0, 1, 2, 3, 4, 5, 6, 7].map b.getLsbD

/-- The bits on the line while output bytes are sent (R46). -/
def lineBits (bytes : List Byte) : List Bool := bytes.flatMap msbFirst

/-- The four SPI bits of one LED bit, "in the order of its symbol's bits 3, 2, 1, 0" (R47). -/
def symbolBits (x : Bool) : List Bool := [3, 2, 1, 0].map (sym x).getLsbD

/-! ### The bus (70_reset_and_hazards.md R154, R155) -/

/-- The Reset Preamble: `RESET_PREAMBLE_BYTES` bytes of `0x00`, sent directly on the bus (R154). -/
def resetPreamble (env : EnvParams) : List Byte := List.replicate env.resetPreambleBytes 0x00

/-- The bytes of one attempt on the bus: the preamble (R154), then the Encoded Buffer (R155). -/
def attemptBytes (env : EnvParams) (pixels : List Byte) : Option (List Byte) :=
  match encBuf pixels env.nPixels with
  | some data => some (resetPreamble env ++ data)
  | none => none

/-! ### Rates (70_reset_and_hazards.md R159, R165) -/

/-- Cycles of one input byte with no stalls: 1 LOAD and 4 emits (41_stream_operations.md R115). -/
def cyclesPerByte : Nat := 5

/-- Cycles of a frame of `n` pixels with no stalls (R115, R165). -/
def cyclesPerFrame (n : Nat) : Nat := cyclesPerByte * (Config.bytesPerPixel * n)

/-- SPI bit times of one input byte (R165). -/
def spiBitsPerInputByte : Nat := 32

/-- "the upstream supplies input bytes at least at `SPI_BIT_RATE / 32` bytes per second" (R159). -/
abbrev upstreamKeepsUp (env : EnvParams) (bytesPerSecond : Nat) : Prop :=
  env.spiBitRate ≤ spiBitsPerInputByte * bytesPerSecond

/-- "`f_clk × 4/5 ≥ SPI_BIT_RATE / 8`" (R159), both sides multiplied by 40. -/
abbrev clockKeepsUp (env : EnvParams) (fClk : Nat) : Prop :=
  cyclesPerByte * env.spiBitRate ≤ spiBitsPerInputByte * fClk

/-- A gap on the line that can latch the strip in the middle of a frame: longer than `LATCH_GAP` (R159). -/
abbrev gapMayLatch (env : EnvParams) (gap : Nat) : Prop := env.latchGap < gap

end Sys2Proof.Machine
end

