-- ==== Sys2Proof/Machine/Record.lean ====
section
/-! DEFINITION. Reading the record of what passed the ports (log entry 3): the bytes accepted and emitted since the last RESET, the
`a_0, a_1, …` and `e_0, e_1, …` of 41_stream_operations.md R113. -/

namespace Sys2Proof.Machine

/-- What passed the ports since the last RESET, oldest first, from a record kept newest first. -/
def sinceReset : List Event → List Event
  | [] => []
  | .reset :: _ => []
  | .accept b :: earlier => sinceReset earlier ++ [.accept b]
  | .emit b :: earlier => sinceReset earlier ++ [.emit b]

/-- The byte the block took, of an event that is an input handshake. -/
def Event.acceptedByte : Event → Option Byte
  | .accept b => some b
  | .emit _ => none
  | .reset => none

/-- The byte the downstream took, of an event that is an output handshake. -/
def Event.emittedByte : Event → Option Byte
  | .emit b => some b
  | .accept _ => none
  | .reset => none

/-- The bytes accepted since the last RESET, in order (R113). -/
def State.accepted (s : State) : List Byte := (sinceReset s.events).filterMap Event.acceptedByte

/-- The bytes emitted since the last RESET, in order (R113). -/
def State.emitted (s : State) : List Byte := (sinceReset s.events).filterMap Event.emittedByte

/-- The handshakes of one input byte: its accept, then its four emits in pair order (41_stream_operations.md R112). -/
def byteEvents (b : Byte) : List Event := .accept b :: (encByte b).map .emit

/-- The handshakes so far of the byte in `hold`: its accept and the emits of the pairs before `p`; none when the block is empty
(10_state.md R25). -/
def State.partialEvents (s : State) : List Event :=
  if s.full then .accept s.hold :: ((encByte s.hold).take s.p.toNat).map .emit else []

end Sys2Proof.Machine
end

