-- ==== Sys2Proof/Machine/Trace.lean ====
section
/-! DEFINITION. Runs of several cycles, and the trace of 30_encoding.md R69. -/

namespace Sys2Proof.Machine

/-- `n` cycles. -/
def runCycles : Nat → State → Host.Outcome State Fault Refusal
  | 0, s => .next s
  | n + 1, s =>
    match step s with
    | .next t => runCycles n t
    | .fault r => .fault r
    | .refused r => .refused r

/-- What a trace shows of one cycle: "the operation decoded (rule R67), the handshakes that fired, `out_data` when `out_valid = 1`,
and the state after the edge" (R69). -/
structure TraceRow where
  operation : Instr
  /-- the byte taken, if the input handshake fired -/
  accepted : Option Byte
  /-- the byte delivered, if the output handshake fired -/
  emitted : Option Byte
  /-- `out_data`, if `out_valid = 1` -/
  outData : Option Byte
  hold : Byte
  p : PairIndex
  full : Bool
  deriving DecidableEq, Repr

/-- The row of the cycle that leads from `s` to `t` (R69). -/
def traceRow (s t : State) : TraceRow where
  operation := s.operation
  accepted := if s.accept then some s.inputs.inData else none
  emitted := if s.emit then some s.outputs.outData else none
  outData := if s.outputs.outValid then some s.outputs.outData else none
  hold := t.hold
  p := t.p
  full := t.full

/-- The trace of `n` cycles (R69). -/
def trace : Nat → State → List TraceRow
  | 0, _ => []
  | n + 1, s =>
    match step s with
    | .next t => traceRow s t :: trace n t
    | .fault _ => []
    | .refused _ => []

end Sys2Proof.Machine
end

