-- ==== Sys2Proof/Safety.lean ====
section
/-! DEFINITION. What a sound state of the block is, in the terms the statements use. The block has no unsafe step (it neither
faults nor refuses, 41_stream_operations.md R103); what can be unsound is a state no RESET has led to (10_state.md R26). -/

namespace Sys2Proof.Machine

/-- The state invariant of 10_state.md R26: "`full = 0` implies `p = 0`". -/
abbrev State.EmptyAtPairZero (s : State) : Prop := s.full = false → s.p = 0

/-- The record since the last RESET is that of whole input bytes, each accepted and then emitted in its four bytes, and of the byte in
`hold` as far as `p` says (41_stream_operations.md R112, R113; 20_memory.md R53). -/
def State.RecordSound (s : State) : Prop :=
  ∃ done : List Byte, sinceReset s.events = done.flatMap byteEvents ++ s.partialEvents

/-- No RESET in the first `n` cycles from `s`. -/
def NoResetFor (n : Nat) (s : State) : Prop :=
  ∀ k u, k < n → runCycles k s = .next u → u.inputs.rst = false

end Sys2Proof.Machine
end

