-- ==== Sys2Proof/Certificates/Slice0/Obligations.lean ====
section
/-! DEFINITION. The statements for the provers. Rules are those of spec/; "log entry" is notes/assumptions/. In every statement the
fields `stimulus`, `cycle` and `events` are the model's own (log entries 1, 2, 3): a clause on them is the model's choice, not the
spec's. No statement reads `out_data` in a cycle with `out_valid = 0` (70_reset_and_hazards.md R160, log entry 13). -/

open Sys2Proof Sys2Proof.Machine

/-! ### The operations, each completing (41_stream_operations.md R103) -/

/-- RESET in every state (R104, 10_state.md R33), with its frame. -/
def Obligations.ExecResetEmptiesTheBlock : Prop :=
  ∀ s : State,
    exec .reset s = .next { s with hold := 0x00, p := 0, full := false, events := .reset :: s.events }

/-- IDLE and STALL in every state (R105, R107): no state change at all. -/
def Obligations.ExecIdleAndStallChangeNothing : Prop :=
  ∀ s : State, exec .idle s = .next s ∧ exec .stall s = .next s

/-- LOAD of every byte in every state (R106), with its frame. -/
def Obligations.ExecLoadTakesTheByte : Prop :=
  ∀ (b : Byte) (s : State),
    exec (.load b) s = .next { s with hold := b, p := 0, full := true, events := .accept b :: s.events }

/-- The three EMIT rows in every state (R108), with their frame. The row fixes `p` only through the decode (log entry 8). -/
def Obligations.ExecEmitDeliversAndAdvances : Prop :=
  ∀ s : State,
    let t : State := { s with p := s.p + 1, events := .emit (encPair s.hold s.p) :: s.events }
    exec .emitP0 s = .next t ∧ exec .emitP1 s = .next t ∧ exec .emitP2 s = .next t

/-- EMIT_LAST in every state, with its frame: `hold` keeps its value. R109 gives the effect with `p = 3`; that in a state whose `p` is
not 3 the byte delivered is `ENC_PAIR(hold, p)` is the model's choice, not the spec's (log entry 8). -/
def Obligations.ExecEmitLastDeliversAndEmpties : Prop :=
  ∀ s : State,
    exec .emitLast s =
      .next { s with p := 0, full := false, events := .emit (encPair s.hold s.p) :: s.events }

/-! ### The step -/

/-- A step runs the operation that the bytes of its control word and `in_data` decode to, and the edge brings the next inputs. The byte
form is the model's choice (log entry 5). -/
def Obligations.StepRunsTheDecodedOperation : Prop :=
  ∀ (s t : State) (i : Instr), decode [s.cw.setWidth 8, s.inputs.inData] = .ok (i, []) → exec i s = .next t →
    step s = .next { t with stimulus := t.stimulus.tail, cycle := t.cycle + 1 }

/-- A table word placed for the next step is that step's operation (log entries 5, 7). -/
def Obligations.PlacedWordIsTheOperation : Prop :=
  ∀ (s : State) (nbits w : Nat) (i : Instr), decodeTableWord nbits w = some i →
    (s.withFetchWord nbits w).operation = i ∧ (s.withFetchWord nbits w).hold = s.hold ∧
      (s.withFetchWord nbits w).events = s.events ∧ (s.withFetchWord nbits w).cycle = s.cycle ∧
      (s.withFetchWord nbits w).stimulus.tail = s.stimulus.tail

/-- R103: the step performs the case of the decoded control word, and is total; the outputs are those of R101, from the state before
the edge. -/
def Obligations.StepPerformsTheCaseOfTheControlWord : Prop :=
  ∀ s : State,
    s.operation =
      decodeControl (controlWord s.inputs.rst s.full s.inputs.inValid s.inputs.outReady s.p) s.inputs.inData ∧
    s.outputs.inReady = (!s.inputs.rst && !s.full) ∧ s.outputs.outValid = (!s.inputs.rst && s.full) ∧
    (s.outputs.outValid = true → s.outputs.outData = encPair s.hold s.p) ∧
    ∃ t, step s = .next t ∧
      match s.operation with
      | .reset => t.hold = 0x00 ∧ t.p = 0 ∧ t.full = false
      | .idle => t.hold = s.hold ∧ t.p = s.p ∧ t.full = s.full
      | .load b => b = s.inputs.inData ∧ t.hold = s.inputs.inData ∧ t.p = 0 ∧ t.full = true
      | .stall => t.hold = s.hold ∧ t.p = s.p ∧ t.full = s.full
      | .emitP0 => s.p = 0 ∧ t.hold = s.hold ∧ t.p = s.p + 1 ∧ t.full = s.full
      | .emitP1 => s.p = 1 ∧ t.hold = s.hold ∧ t.p = s.p + 1 ∧ t.full = s.full
      | .emitP2 => s.p = 2 ∧ t.hold = s.hold ∧ t.p = s.p + 1 ∧ t.full = s.full
      | .emitLast => s.p = 3 ∧ t.hold = s.hold ∧ t.p = 0 ∧ t.full = false

/-- Every step takes one entry of the inputs, counts one cycle and records at most one event (20_memory.md R50; log entries 1 to 3). -/
def Obligations.StepFrameOfTheEnvironment : Prop :=
  ∀ s t : State, step s = .next t →
    t.stimulus = s.stimulus.tail ∧ t.cycle = s.cycle + 1 ∧
      ∃ es : List Event, t.events = es ++ s.events ∧ es.length ≤ 1

/-- R151: a cycle with `rst = 1`, whatever the state and the other inputs. -/
def Obligations.ResetCycle : Prop :=
  ∀ s : State, s.inputs.rst = true →
    s.outputs.inReady = false ∧ s.outputs.outValid = false ∧ s.accept = false ∧ s.emit = false ∧
    s.operation = .reset ∧
    step s = .next { hold := 0x00, p := 0, full := false, stimulus := s.stimulus.tail, cycle := s.cycle + 1,
                     events := .reset :: s.events }

/-- R33: "in the first cycle with `rst = 0`" after a RESET the block is empty and ready; it performs IDLE or LOAD (R152). -/
def Obligations.EmptyAndReadyAfterReset : Prop :=
  ∀ s t : State, s.inputs.rst = true → step s = .next t →
    t.hold = 0x00 ∧ t.p = 0 ∧ t.full = false ∧
    (t.inputs.rst = false →
      t.outputs.inReady = true ∧ t.outputs.outValid = false ∧
        (t.operation = .idle ∨ t.operation = .load t.inputs.inData))

/-- R150, R153: from the unspecified power-on state one cycle with `rst = 1` leads to the reset values (log entry 9: nothing is
known of the power-on values, which are free). -/
def Obligations.OneResetCycleAfterPowerOn : Prop :=
  ∀ (i : CycleInputs) (rest : List CycleInputs), i.rst = true →
    step (State.powerOn (i :: rest)) =
      .next { State.reset with stimulus := rest, cycle := 1, events := [.reset] }

/-- R105: a cycle of an empty block that is offered nothing; the last clause is R105's "From a reachable state `p = 0` here". -/
def Obligations.IdleCycle : Prop :=
  ∀ s : State, s.inputs.rst = false → s.full = false → s.inputs.inValid = false →
    s.operation = .idle ∧ s.outputs.inReady = true ∧ s.outputs.outValid = false ∧ s.accept = false ∧ s.emit = false ∧
    step s = .next { s with stimulus := s.stimulus.tail, cycle := s.cycle + 1 } ∧
    (s.EmptyAtPairZero → s.p = 0)

/-- R106: a cycle of an empty block that is offered a byte. -/
def Obligations.LoadCycle : Prop :=
  ∀ s : State, s.inputs.rst = false → s.full = false → s.inputs.inValid = true →
    s.operation = .load s.inputs.inData ∧ s.outputs.inReady = true ∧ s.outputs.outValid = false ∧
    s.accept = true ∧ s.emit = false ∧
    step s = .next { s with hold := s.inputs.inData, p := 0, full := true, stimulus := s.stimulus.tail,
                            cycle := s.cycle + 1, events := .accept s.inputs.inData :: s.events } ∧
    ∀ t, step s = .next t → t.inputs.rst = false → t.outputs = ⟨false, true, encPair s.inputs.inData 0⟩

/-- R107: a cycle of a full block whose downstream is not ready. -/
def Obligations.StallCycle : Prop :=
  ∀ s : State, s.inputs.rst = false → s.full = true → s.inputs.outReady = false →
    s.operation = .stall ∧ s.outputs = ⟨false, true, encPair s.hold s.p⟩ ∧ s.accept = false ∧ s.emit = false ∧
    step s = .next { s with stimulus := s.stimulus.tail, cycle := s.cycle + 1 } ∧
    ∀ t, step s = .next t → t.inputs.rst = false →
      t.outputs.outValid = true ∧ t.outputs.outData = s.outputs.outData

/-- R108: a cycle that delivers pair 0, 1 or 2. -/
def Obligations.EmitCycle : Prop :=
  ∀ s : State, s.inputs.rst = false → s.full = true → s.inputs.outReady = true → s.p ≠ 3 →
    ((s.p = 0 ∧ s.operation = .emitP0) ∨ (s.p = 1 ∧ s.operation = .emitP1) ∨ (s.p = 2 ∧ s.operation = .emitP2)) ∧
    s.outputs = ⟨false, true, encPair s.hold s.p⟩ ∧ s.accept = false ∧ s.emit = true ∧
    (s.p + 1).toNat = s.p.toNat + 1 ∧
    step s = .next { s with p := s.p + 1, stimulus := s.stimulus.tail, cycle := s.cycle + 1,
                            events := .emit (encPair s.hold s.p) :: s.events }

/-- R109: a cycle that delivers pair 3; the block can take the next byte in the following cycle, not in this one. -/
def Obligations.EmitLastCycle : Prop :=
  ∀ s : State, s.inputs.rst = false → s.full = true → s.inputs.outReady = true → s.p = 3 →
    s.operation = .emitLast ∧ s.outputs = ⟨false, true, encPair s.hold 3⟩ ∧ s.accept = false ∧ s.emit = true ∧
    step s = .next { s with p := 0, full := false, stimulus := s.stimulus.tail, cycle := s.cycle + 1,
                            events := .emit (encPair s.hold 3) :: s.events } ∧
    ∀ t, step s = .next t → t.inputs.rst = false → t.outputs.inReady = true ∧ t.outputs.outValid = false

/-- Any number of STALL cycles, and any number of IDLE cycles, change nothing (R107, 60_exceptions.md R143). -/
def Obligations.QuietCyclesChangeNothing : Prop :=
  ∀ (s : State) (quiet rest : List CycleInputs), s.stimulus = quiet ++ rest →
    (∀ i ∈ quiet, i.rst = false ∧ (s.full = true → i.outReady = false) ∧ (s.full = false → i.inValid = false)) →
    runCycles quiet.length s = .next { s with stimulus := rest, cycle := s.cycle + quiet.length }

/-! ### The decode (30_encoding.md R66 to R71) -/

/-- Decode and encode agree: the encoding of an operation decodes to it, and the bytes that decode to an operation are exactly those
whose control word its row of R67's table matches, with its operand byte for LOAD and any second byte for the others. The byte form, and
the encoder's 0 for a don't-care bit, are the model's choice (log entries 5, 6). -/
def Obligations.DecodeEncodeAgree : Prop :=
  ∀ (i : Instr) (rest : List Byte), i.wf = true →
    decode (encode i ++ rest) = .ok (i, rest) ∧
    ∀ (cw : ControlWord) (d : Byte),
      decode (cw.setWidth 8 :: d :: rest) = .ok (i, rest) ↔
        i.row.matchesWord cw = true ∧ ∀ b, i = .load b → d = b

/-- R67: the operation of a control word is the single row of the table whose pattern matches it. -/
def Obligations.DecodeIsTheSingleMatchingRow : Prop :=
  ∀ (cw : ControlWord) (d : Byte),
    (decodeControl cw d).row ∈ opcodeTable ∧
    ∀ r ∈ opcodeTable, r.matchesWord cw = true ↔ r = (decodeControl cw d).row

/-- R68: each of the 64 words matches exactly one row; how many words each row takes; which inputs are ignored. -/
def Obligations.DecodeIsTotalAndExclusive : Prop :=
  let words : List ControlWord := (List.range 64).map (BitVec.ofNat 6)
  let taken (i : Instr) : Nat := words.countP fun cw => i.row.matchesWord cw
  (∀ cw : ControlWord, cw ∈ words ∧ opcodeTable.countP (fun r => r.matchesWord cw) = 1) ∧
  taken .reset = 32 ∧ taken .idle + taken (.load 0) = 16 ∧ taken .idle = 8 ∧ taken .stall = 8 ∧
  taken .emitP0 = 2 ∧ taken .emitP1 = 2 ∧ taken .emitP2 = 2 ∧ taken .emitLast = 2 ∧
  (∀ cw : ControlWord,
    ((Instr.row .reset).matchesWord cw = true ↔ cwRst cw = true) ∧
    ((Instr.row .idle).matchesWord cw = true ↔ cwRst cw = false ∧ cwFull cw = false ∧ cwInValid cw = false) ∧
    ((Instr.row (.load 0)).matchesWord cw = true ↔ cwRst cw = false ∧ cwFull cw = false ∧ cwInValid cw = true) ∧
    ((Instr.row .stall).matchesWord cw = true ↔ cwRst cw = false ∧ cwFull cw = true ∧ cwOutReady cw = false) ∧
    ((Instr.row .emitP0).matchesWord cw = true ↔
      cwRst cw = false ∧ cwFull cw = true ∧ cwOutReady cw = true ∧ cwP cw = 0) ∧
    ((Instr.row .emitP1).matchesWord cw = true ↔
      cwRst cw = false ∧ cwFull cw = true ∧ cwOutReady cw = true ∧ cwP cw = 1) ∧
    ((Instr.row .emitP2).matchesWord cw = true ↔
      cwRst cw = false ∧ cwFull cw = true ∧ cwOutReady cw = true ∧ cwP cw = 2) ∧
    ((Instr.row .emitLast).matchesWord cw = true ↔
      cwRst cw = false ∧ cwFull cw = true ∧ cwOutReady cw = true ∧ cwP cw = 3)) ∧
  ∀ (x y v : Bool) (p : PairIndex) (d : Byte),
    decodeControl (controlWord false false v x p) d = decodeControl (controlWord false false v y p) d ∧
    decodeControl (controlWord false true x v p) d = decodeControl (controlWord false true y v p) d

/-- R133: the order in which the conditions of one cycle are taken. -/
def Obligations.PriorityOfSimultaneousConditions : Prop :=
  ∀ s : State,
    (s.inputs.rst = true → s.operation = .reset ∧ s.accept = false ∧ s.emit = false) ∧
    (s.inputs.rst = false → s.full = false →
      s.operation = if s.inputs.inValid then .load s.inputs.inData else .idle) ∧
    (s.inputs.rst = false → s.full = true → s.inputs.outReady = false → s.operation = .stall) ∧
    (s.inputs.rst = false → s.full = true → s.inputs.outReady = true →
      s.operation = .emitP0 ∨ s.operation = .emitP1 ∨ s.operation = .emitP2 ∨ s.operation = .emitLast) ∧
    ¬(s.accept = true ∧ s.emit = true)

/-- Control words written out from R66 and R67, one for each row, decode to the operations they stand for. That they stand as bytes (two
zero bits above the control word, `in_data` as a second byte) is the model's choice, not the spec's (log entry 5). -/
def Obligations.WordsWrittenOutDecode : Prop :=
  decode [0b00111110, 0x33] = .ok (.reset, []) ∧ decode [0b00000100, 0x00] = .ok (.idle, []) ∧
  decode [0b00001100, 0xA5] = .ok (.load 0xA5, []) ∧ decode [0b00011001, 0x12] = .ok (.stall, []) ∧
  decode [0b00010100, 0x00] = .ok (.emitP0, []) ∧ decode [0b00011101, 0x00] = .ok (.emitP1, []) ∧
  decode [0b00011110, 0x77] = .ok (.emitP2, []) ∧ decode [0b00010111, 0x00] = .ok (.emitLast, [])

/-- The byte form refuses, by name, what is no control word with its data byte. The byte form is the model's own (log entry 5). -/
def Obligations.ByteFormRejectsByName : Prop :=
  (∀ (c d : Byte) (rest : List Byte), 64 ≤ c.toNat → decode (c :: d :: rest) = .error .notAControlWord) ∧
  decode [] = .error .truncated ∧ ∀ c : Byte, decode [c] = .error .truncated

/-! ### Outputs and handshakes (41_stream_operations.md R101, R102, R110, R111, R116) -/

/-- R116: the outputs depend only on the state and on `rst`. -/
def Obligations.OutputsDependOnStateAndResetOnly : Prop :=
  ∀ s t : State, s.hold = t.hold → s.p = t.p → s.full = t.full → s.inputs.rst = t.inputs.rst →
    s.outputs.inReady = t.outputs.inReady ∧ s.outputs.outValid = t.outputs.outValid ∧
      (s.outputs.outValid = true → s.outputs.outData = t.outputs.outData)

/-- R102: the handshakes; at most one fires; none fires in a RESET cycle; an offer that is not accepted leaves no trace. -/
def Obligations.HandshakesExcludeEachOther : Prop :=
  ∀ s : State,
    s.accept = (s.inputs.inValid && (!s.inputs.rst && !s.full)) ∧
    s.emit = ((!s.inputs.rst && s.full) && s.inputs.outReady) ∧
    ¬(s.accept = true ∧ s.emit = true) ∧
    (s.inputs.rst = true → s.accept = false ∧ s.emit = false) ∧
    ∀ (i : CycleInputs) (rest : List CycleInputs) (d : Byte), s.stimulus = i :: rest → s.accept = false →
      step { s with stimulus := { i with inValid := false, inData := d } :: rest } = step s

/-- What a step records is what the handshakes of R102 moved: the operation's effect agrees with the port equations (log entry 3). -/
def Obligations.RecordFollowsTheHandshakes : Prop :=
  ∀ s t : State, step s = .next t →
    t.events =
      (if s.inputs.rst then [.reset]
       else if s.accept then [.accept s.inputs.inData]
       else if s.emit then [.emit s.outputs.outData]
       else []) ++ s.events

/-- R110: an ignored input may have any value. -/
def Obligations.IgnoredInputsHaveNoEffect : Prop :=
  ∀ (s : State) (i j : CycleInputs) (rest : List CycleInputs), s.stimulus = i :: rest → i.rst = j.rst →
    (i.rst = false → s.full = false → i.inValid = j.inValid ∧ (i.inValid = true → i.inData = j.inData)) →
    (i.rst = false → s.full = true → i.outReady = j.outReady) →
    step { s with stimulus := j :: rest } = step s

/-- R111: a valid output stays, and a ready input stays ready, until its handshake fires or a RESET occurs. -/
def Obligations.OutputsAreStableUntilTaken : Prop :=
  ∀ (n : Nat) (s t : State), runCycles n s = .next t → NoResetFor n s → t.inputs.rst = false →
    (s.outputs.outValid = true → (∀ k u, k < n → runCycles k s = .next u → u.emit = false) →
      t.outputs.outValid = true ∧ t.outputs.outData = s.outputs.outData) ∧
    (s.outputs.inReady = true → (∀ k u, k < n → runCycles k s = .next u → u.accept = false) →
      t.outputs.inReady = true)

/-- R64: the code bytes; the block emits no other; the checker decodes no other; the symbols. -/
def Obligations.OnlyCodeBytesAreEmitted : Prop :=
  (∀ o : Byte, isCodeByte o = true ↔ o = 0x88 ∨ o = 0x8C ∨ o = 0xC8 ∨ o = 0xCC) ∧
  (∀ o : Byte, isCodeByte o = true ↔ o &&& 0xBB = 0x88) ∧
  (∀ s : State, s.outputs.outValid = true → isCodeByte s.outputs.outData = true) ∧
  (∀ o : Byte, isCodeByte o = false → decByte o = none) ∧
  isCodeByte 0x00 = false ∧
  ∀ x : Symbol, (∃ b, x = sym b) ↔ x = 0x8 ∨ x = 0xC

/-! ### Invariants and streams (10_state.md R26; 41_stream_operations.md R112 to R117) -/

/-- R26's invariant holds at reset and after a RESET from any state. -/
def Obligations.EmptyAtPairZeroAtReset : Prop :=
  State.reset.EmptyAtPairZero ∧
  ∀ s t : State, s.inputs.rst = true → step s = .next t → t.EmptyAtPairZero

/-- R26's invariant is kept by every step. -/
def Obligations.EmptyAtPairZeroIsKept : Prop :=
  ∀ s t : State, s.EmptyAtPairZero → step s = .next t → t.EmptyAtPairZero

/-- R26: in every state reachable from a reset, `full = 0` implies `p = 0`. -/
def Obligations.EmptyAtPairZeroWhenReachable : Prop :=
  ∀ (n : Nat) (s t : State), s.inputs.rst = true → runCycles (n + 1) s = .next t → t.full = false → t.p = 0

/-- The record since the last RESET is sound at reset and after a RESET from any state (log entry 3). -/
def Obligations.RecordSoundAtReset : Prop :=
  State.reset.RecordSound ∧ ∀ s t : State, s.inputs.rst = true → step s = .next t → t.RecordSound

/-- Every step keeps the record sound: whole input bytes, each accepted and then emitted in its four bytes in pair order, and the
byte in `hold` as far as `p` says (R112, 20_memory.md R53; log entry 3). -/
def Obligations.RecordSoundIsKept : Prop :=
  ∀ s t : State, s.RecordSound → step s = .next t → t.RecordSound

/-- R112: after a RESET, the handshakes are those of whole bytes and of the byte held; LOAD needs an empty block; the block becomes
empty only by EMIT_LAST or RESET. -/
def Obligations.FourOutputsPerInput : Prop :=
  (∀ (n : Nat) (s t : State), s.inputs.rst = true → runCycles (n + 1) s = .next t →
    ∃ done : List Byte,
      sinceReset t.events =
        done.flatMap (fun b => .accept b :: [.emit (encPair b 0), .emit (encPair b 1), .emit (encPair b 2),
          .emit (encPair b 3)]) ++ t.partialEvents) ∧
  (∀ (s : State) (b : Byte), s.operation = .load b → s.full = false) ∧
  ∀ s t : State, step s = .next t → s.full = true → t.full = false → s.operation = .emitLast ∨ s.operation = .reset

/-- R113, the stream correctness: of a run from a RESET, with what was accepted and emitted since the last RESET in it (all of it,
where no later RESET occurs). -/
def Obligations.StreamCorrectness : Prop :=
  ∀ (n : Nat) (s t : State), s.inputs.rst = true → runCycles (n + 1) s = .next t →
    (∀ (j : Nat) (e : Byte), t.emitted[j]? = some e →
      ∃ a, t.accepted[j / 4]? = some a ∧ e = encPair a (BitVec.ofNat 2 (j % 4))) ∧
    t.emitted <+: t.accepted.flatMap encByte ∧
    4 * (t.accepted.length - 1) ≤ t.emitted.length ∧
    (t.full = false →
      t.emitted = t.accepted.flatMap encByte ∧ t.emitted.length = 4 * t.accepted.length ∧
      ∀ (pixels : List Byte) (k : Nat), 3 * k ≤ pixels.length → t.accepted = pixels.take (3 * k) →
        encBuf pixels k = some t.emitted ∧ t.emitted.length = 12 * k)

/-- R114: the first output byte is offered in the cycle after the LOAD, and with a ready downstream the four are emitted in the four
cycles after it. -/
def Obligations.LatencyOfOneByte : Prop :=
  ∀ (s : State) (i0 i1 i2 i3 i4 : CycleInputs) (rest : List CycleInputs), s.full = false →
    s.stimulus = i0 :: i1 :: i2 :: i3 :: i4 :: rest → i0.rst = false → i0.inValid = true →
    (∀ i ∈ [i1, i2, i3, i4], i.rst = false ∧ i.outReady = true) →
    (∃ t, step s = .next t ∧ t.outputs = ⟨false, true, encPair i0.inData 0⟩) ∧
    runCycles 5 s =
      .next { hold := i0.inData, p := 0, full := false, stimulus := rest, cycle := s.cycle + 5,
              events := (byteEvents i0.inData).reverse ++ s.events }

/-- R115: at least 5 cycles per input byte, 15 per pixel and 15n per frame; exactly one byte in and four out every 5 cycles under
continuous input and output. -/
def Obligations.ThroughputOfTheBlock : Prop :=
  (∀ s : State, ¬(s.accept = true ∧ s.emit = true)) ∧
  (∀ (n : Nat) (s t : State), s.full = false → NoResetFor n s → runCycles n s = .next t →
    ∃ es : List Event, t.events = es ++ s.events ∧
      5 * (es.filterMap Event.acceptedByte).length ≤ n + 4 ∧
      (t.full = false → 5 * (es.filterMap Event.acceptedByte).length ≤ n) ∧
      ∀ k, t.full = false → (es.filterMap Event.acceptedByte).length = 3 * k → 15 * k ≤ n) ∧
  ∀ (m : Nat) (s : State) (inputs rest : List CycleInputs), s.full = false → s.stimulus = inputs ++ rest →
    inputs.length = 5 * m → (∀ i ∈ inputs, i.rst = false ∧ i.inValid = true ∧ i.outReady = true) →
    ∃ t es, runCycles (5 * m) s = .next t ∧ t.full = false ∧ t.events = es ++ s.events ∧
      (es.filterMap Event.acceptedByte).length = m ∧ (es.filterMap Event.emittedByte).length = 4 * m

/-- R117: what passes the ports from an empty block depends on the inputs alone, not on what the block did before. -/
def Obligations.FramesAreIndependent : Prop :=
  ∀ (n : Nat) (s s' t : State), s.full = false → s'.full = false → s.stimulus = s'.stimulus → s.cycle = s'.cycle →
    runCycles n s = .next t →
    ∃ t' es, runCycles n s' = .next t' ∧ t.events = es ++ s.events ∧ t'.events = es ++ s'.events ∧
      t.full = t'.full ∧ (t.full = true → t.hold = t'.hold ∧ t.p = t'.p)

/-- The stimulus program of a frame, run from reset with no stalls, emits the frame's Encoded Buffer in `15n` cycles and leaves the
block empty (30_encoding.md R69, R113, 70_reset_and_hazards.md R165). -/
def Obligations.FrameProgramEmitsTheEncodedBuffer : Prop :=
  ∀ pixels : List Pixel,
    ∃ t, runCycles (cyclesPerFrame pixels.length) (State.reset.withProgram (frameProgram pixels)) = .next t ∧
      t.full = false ∧ t.p = 0 ∧ t.stimulus = [] ∧ t.accepted = frameStream pixels ∧
      encBuf (frameStream pixels) pixels.length = some t.emitted

/-- R69: after a RESET, `BYTE b` accepts `b` in its first cycle and emits `ENC_BYTE(b)` in its four GET cycles; it ends with
`full = 0, p = 0`. -/
def Obligations.ByteStatementTrace : Prop :=
  ∀ (s : State) (b : Byte), s.hold = 0x00 → s.p = 0 → s.full = false →
    let rows := trace 5 (s.withProgram (.byte b))
    rows.map TraceRow.operation = [.load b, .emitP0, .emitP1, .emitP2, .emitLast] ∧
    rows.map TraceRow.accepted = [some b, none, none, none, none] ∧
    rows.map TraceRow.emitted = none :: (encByte b).map some ∧
    ∃ t, runCycles 5 (s.withProgram (.byte b)) = .next t ∧ t.hold = b ∧ t.p = 0 ∧ t.full = false

/-- The trace of R69 has one row a cycle, and the bytes it shows as taken and delivered, by the port equations of R102, are those the
operations recorded (log entry 3). -/
def Obligations.TraceAgreesWithTheRecord : Prop :=
  ∀ (n : Nat) (s t : State), runCycles n s = .next t →
    (trace n s).length = n ∧
    ∃ es : List Event, t.events = es ++ s.events ∧
      (trace n s).filterMap TraceRow.accepted = es.reverse.filterMap Event.acceptedByte ∧
      (trace n s).filterMap TraceRow.emitted = es.reverse.filterMap Event.emittedByte

/-! ### The encoding functions (30_encoding.md, 40_symbol_encode.md) -/

/-- R61: the layout of a symbol. -/
def Obligations.SymbolLayout : Prop :=
  ∀ x : Bool,
    (sym x).getLsbD 3 = true ∧ (sym x).getLsbD 2 = x ∧ (sym x).getLsbD 1 = false ∧ (sym x).getLsbD 0 = false ∧
    sym x = 0b1000 ||| ((BitVec.ofBool x).setWidth 4 <<< 2)

/-- R82: `ENC_PAIR` by its operands and by its closed form; its result is a code byte. -/
def Obligations.EncPairClosedForm : Prop :=
  ∀ (b : Byte) (p : PairIndex),
    encPair b p = pack (sym (b.getLsbD (7 - 2 * p.toNat))) (sym (b.getLsbD (6 - 2 * p.toNat))) ∧
    encPair b p =
      0x88 ||| ((BitVec.ofBool (b.getLsbD (7 - 2 * p.toNat))).setWidth 8 <<< 6) |||
        ((BitVec.ofBool (b.getLsbD (6 - 2 * p.toNat))).setWidth 8 <<< 2) ∧
    isCodeByte (encPair b p) = true

/-- R83: the four bytes, their word with the first byte most significant, and the word's closed form. -/
def Obligations.EncByteWordClosedForm : Prop :=
  ∀ b : Byte,
    encByte b = [encPair b 0, encPair b 1, encPair b 2, encPair b 3] ∧
    (∀ p : PairIndex, (encWord b).extractLsb' (24 - 8 * p.toNat) 8 = encPair b p) ∧
    encWord b =
      0x88888888 ||| (List.range 8).foldl (fun w j => w + ((BitVec.ofBool (b.getLsbD j)).setWidth 32 <<< (4 * j + 2))) 0 ∧
    ∀ j, j < 8 → (encWord b).getLsbD (4 * j + 2) = b.getLsbD j

/-- R92: injectivity, from symbols to buffers. -/
def Obligations.EncodingIsInjective : Prop :=
  sym false ≠ sym true ∧
  (∀ (b c : Byte) (p : PairIndex), encPair b p = encPair c p → pairHigh b p = pairHigh c p ∧ pairLow b p = pairLow c p) ∧
  (∀ b c : Byte, encByte b = encByte c → b = c) ∧
  ∀ (xs ys : List Byte) (n : Nat) (out : List Byte), encBuf xs n = some out → encBuf ys n = some out →
    xs.take (3 * n) = ys.take (3 * n)

/-- R44: the layout of the Encoded Buffer. -/
def Obligations.EncodedBufferLayout : Prop :=
  (∀ (pixels : List Byte) (n : Nat) (out : List Byte), encBuf pixels n = some out →
    out.length = 12 * n ∧
    ∀ (i c : Nat) (p : PairIndex), i < n → c < 3 →
      ∃ b, pixels[3 * i + c]? = some b ∧ out[i * 12 + c * 4 + p.toNat]? = some (encPair b p)) ∧
  (∀ n j : Nat, j < 12 * n → ∃ (i c : Nat) (p : PairIndex), i < n ∧ c < 3 ∧ j = i * 12 + c * 4 + p.toNat) ∧
  ∀ (i c i' c' : Nat) (p p' : PairIndex), c < 3 → c' < 3 →
    i * 12 + c * 4 + p.toNat = i' * 12 + c' * 4 + p'.toNat → i = i' ∧ c = c' ∧ p = p'

/-- R85's corner cases and U1: where `ENC_BUF` is defined, and that it reads the first `3n` bytes only. -/
def Obligations.EncodedBufferDomain : Prop :=
  ∀ (pixels : List Byte) (n : Nat),
    (encBuf pixels n = none ↔ pixels.length < 3 * n) ∧
    encBuf pixels n = encBuf (pixels.take (3 * n)) n ∧
    encBuf pixels 0 = some []

/-- R89 with R88: the checker on one byte. -/
def Obligations.DecByteInvertsPacking : Prop :=
  (∀ x : Bool, decNibble (sym x) = some x) ∧
  (∀ o : Byte, decByte o = if o &&& 0xBB = 0x88 then some (o.getLsbD 6, o.getLsbD 2) else none) ∧
  ∀ (b : Byte) (p : PairIndex), decByte (encPair b p) = some (b.getLsbD (7 - 2 * p.toNat), b.getLsbD (6 - 2 * p.toNat))

/-- R90: the round trip, and where `DEC_BUF` gives `NONE`. -/
def Obligations.RoundTripOfTheEncodedBuffer : Prop :=
  (∀ (pixels : List Byte) (n : Nat), 3 * n ≤ pixels.length →
    ∃ out, encBuf pixels n = some out ∧ decBuf out = some (pixels.take (3 * n))) ∧
  decBuf [] = some [] ∧
  (∀ e : List Byte, e.length % 12 ≠ 0 → decBuf e = none) ∧
  ∀ e : List Byte, (∃ o ∈ e, decByte o = none) → decBuf e = none

/-- `DEC_BUF` is the inverse of the encoding and of nothing more: it gives a Pixel Sequence exactly for that sequence's encoding. -/
def Obligations.DecBufIsTheExactInverse : Prop :=
  ∀ e pixels : List Byte,
    decBuf e = some pixels ↔ pixels.length % 3 = 0 ∧ encBuf pixels (pixels.length / 3) = some e

/-! ### The line (20_memory.md R46, R47; 40_symbol_encode.md R91; 70_reset_and_hazards.md R158, R164) -/

/-- R91: the pulse shapes of the symbols sent most significant bit first. -/
def Obligations.PulseShapes : Prop :=
  symbolBits false = [true, false, false, false] ∧ symbolBits true = [true, true, false, false] ∧
  (∀ x : Bool, (symbolBits x).length = 4 ∧ (symbolBits x).head? = some true ∧ (symbolBits x).getLast? = some false) ∧
  (symbolBits false).count true = 1 ∧ (symbolBits true).count true = 2 ∧
  ∀ (b : Byte) (p : PairIndex), msbFirst (encPair b p) = symbolBits (pairHigh b p) ++ symbolBits (pairLow b p)

/-- R47: the LED bits on the line of a frame, and how many SPI bit times it takes (R165). -/
def Obligations.LedBitOrderOnTheLine : Prop :=
  ∀ (pixels : List Pixel) (out : List Byte), encBuf (frameStream pixels) pixels.length = some out →
    lineBits out =
      pixels.flatMap (fun px => (msbFirst px.g ++ msbFirst px.r ++ msbFirst px.b).flatMap symbolBits) ∧
    (lineBits out).length = 96 * pixels.length

/-- R158: sent least significant bit first, every symbol starts low and ends high. -/
def Obligations.LeastSignificantFirstReversesSymbols : Prop :=
  (∀ x : Bool, (symbolBits x).reverse = [false, false, x, true]) ∧
  ∀ (b : Byte) (p : PairIndex),
    lsbFirst (encPair b p) = (symbolBits (pairLow b p)).reverse ++ (symbolBits (pairHigh b p)).reverse

/-- R164: no valid output byte is `0x00`; zero bytes fed through the block are LED "0" bits, not a reset. -/
def Obligations.ZeroBytesAreNotIdle : Prop :=
  (∀ s : State, s.outputs.outValid = true →
    s.outputs.outData.getLsbD 7 = true ∧ s.outputs.outData.getLsbD 3 = true ∧ s.outputs.outData ≠ 0x00) ∧
  (∀ n : Nat, (List.replicate n (0x00 : Byte)).flatMap encByte = List.replicate (4 * n) 0x88) ∧
  (List.replicate 80 (0x00 : Byte)).flatMap encByte = List.replicate 320 0x88 ∧
  ∀ n : Nat, lineBits (List.replicate n 0x88) = (List.replicate (2 * n) (symbolBits false)).flatten

/-- The bytes of one attempt: the preamble, which does not pass the encoder, then the `12n` bytes (R154, R155; log entry 15). -/
def Obligations.AttemptIsPreambleThenData : Prop :=
  ∀ (env : EnvParams) (pixels data : List Byte), encBuf pixels env.nPixels = some data →
    ∃ bytes, attemptBytes env pixels = some bytes ∧
      bytes.take env.resetPreambleBytes = List.replicate env.resetPreambleBytes 0x00 ∧
      bytes.drop env.resetPreambleBytes = data ∧
      bytes.length = env.resetPreambleBytes + 12 * env.nPixels

/-- The rate conditions of R159, as R159 writes them (log entry 15). -/
def Obligations.RateConditions : Prop :=
  ∀ (env : EnvParams) (fClk upstream : Nat),
    (clockKeepsUp env fClk ↔ (env.spiBitRate : ℚ) / 8 ≤ (fClk : ℚ) * (4 / 5)) ∧
    (clockKeepsUp env fClk ↔ (env.spiBitRate : ℚ) / (64 / 10) ≤ (fClk : ℚ)) ∧
    (upstreamKeepsUp env upstream ↔ (env.spiBitRate : ℚ) / 32 ≤ (upstream : ℚ))
end

