-- ==== Sys2Proof/Laws/Decode.lean ====
section
/-! SUPPORT. The decode seen through the fields of the control word: what the provers cite instead of unfolding `decodeControl`. -/

namespace Sys2Proof

variable (rst full inValid outReady : Bool) (p : PairIndex)

@[simp] theorem cwRst_controlWord : cwRst (controlWord rst full inValid outReady p) = rst := by
  revert rst full inValid outReady p; decide

@[simp] theorem cwFull_controlWord : cwFull (controlWord rst full inValid outReady p) = full := by
  revert rst full inValid outReady p; decide

@[simp] theorem cwInValid_controlWord : cwInValid (controlWord rst full inValid outReady p) = inValid := by
  revert rst full inValid outReady p; decide

@[simp] theorem cwOutReady_controlWord : cwOutReady (controlWord rst full inValid outReady p) = outReady := by
  revert rst full inValid outReady p; decide

@[simp] theorem cwP_controlWord : cwP (controlWord rst full inValid outReady p) = p := by
  revert rst full inValid outReady p; decide

/-- A control word is its fields. -/
@[simp] theorem controlWord_fields (cw : ControlWord) :
    controlWord (cwRst cw) (cwFull cw) (cwInValid cw) (cwOutReady cw) (cwP cw) = cw := by
  revert cw; decide

/-- The decode in terms of the fields. -/
theorem decodeControl_controlWord (d : Byte) :
    decodeControl (controlWord rst full inValid outReady p) d =
      if rst then .reset
      else if full then
        if outReady then
          if p = 0 then .emitP0 else if p = 1 then .emitP1 else if p = 2 then .emitP2 else .emitLast
        else .stall
      else if inValid then .load d
      else .idle := by
  simp only [decodeControl, cwRst_controlWord, cwFull_controlWord, cwInValid_controlWord, cwOutReady_controlWord,
    cwP_controlWord]

namespace Machine

/-- The operation of a cycle in terms of the state and the inputs. -/
theorem operation_eq (s : State) :
    s.operation =
      if s.inputs.rst then .reset
      else if s.full then
        if s.inputs.outReady then
          if s.p = 0 then .emitP0 else if s.p = 1 then .emitP1 else if s.p = 2 then .emitP2 else .emitLast
        else .stall
      else if s.inputs.inValid then .load s.inputs.inData
      else .idle :=
  decodeControl_controlWord ..

end Machine
end Sys2Proof
end

