-- ==== Sys2Proof/Laws/Encode.lean ====
section
/-! SUPPORT. Small lemmas of the encoding functions and of the record. -/

namespace Sys2Proof.Machine

@[simp] theorem sym_false : sym false = 0b1000 := rfl
@[simp] theorem sym_true : sym true = 0b1100 := rfl

@[simp] theorem encByte_length (b : Byte) : (encByte b).length = 4 := rfl

@[simp] theorem byteEvents_length (b : Byte) : (byteEvents b).length = 5 := rfl

/-- Four output bytes for each byte encoded. -/
theorem length_flatMap_encByte (bytes : List Byte) : (bytes.flatMap encByte).length = 4 * bytes.length := by
  induction bytes with
  | nil => rfl
  | cons b rest ih =>
    rw [List.flatMap_cons, List.length_append, ih, encByte_length, List.length_cons]; omega

@[simp] theorem sinceReset_nil : sinceReset [] = [] := rfl
@[simp] theorem sinceReset_reset (es : List Event) : sinceReset (.reset :: es) = [] := rfl
@[simp] theorem sinceReset_accept (b : Byte) (es : List Event) :
    sinceReset (.accept b :: es) = sinceReset es ++ [.accept b] := rfl
@[simp] theorem sinceReset_emit (b : Byte) (es : List Event) :
    sinceReset (.emit b :: es) = sinceReset es ++ [.emit b] := rfl

@[simp] theorem acceptedByte_accept (b : Byte) : (Event.accept b).acceptedByte = some b := rfl
@[simp] theorem acceptedByte_emit (b : Byte) : (Event.emit b).acceptedByte = none := rfl
@[simp] theorem acceptedByte_reset : Event.reset.acceptedByte = none := rfl
@[simp] theorem emittedByte_accept (b : Byte) : (Event.accept b).emittedByte = none := rfl
@[simp] theorem emittedByte_emit (b : Byte) : (Event.emit b).emittedByte = some b := rfl
@[simp] theorem emittedByte_reset : Event.reset.emittedByte = none := rfl

/-- Reading bytes succeeds exactly when they are all there, and then gives them. -/
theorem readBytes_spec (buf : List Byte) (count : Nat) :
    ∀ k, readBytes buf k count =
      if k + count ≤ buf.length ∨ count = 0 then some ((buf.drop k).take count) else none := by
  induction count with
  | zero => intro k; simp [readBytes]
  | succ count ih =>
    intro k
    simp only [readBytes, memRead, ih]
    by_cases hk : k < buf.length
    · rw [List.getElem?_eq_getElem hk]
      have hd : buf.drop k = buf[k] :: buf.drop (k + 1) := List.drop_eq_getElem_cons hk
      by_cases hc : k + 1 + count ≤ buf.length
      · have : k + (count + 1) ≤ buf.length := by omega
        rw [hd, List.take_succ_cons, if_pos (Or.inl hc), if_pos (Or.inl this)]
      · have h1 : ¬k + (count + 1) ≤ buf.length := by omega
        have h0 : count ≠ 0 := by omega
        simp [hc, h1, h0]
    · have : ¬k + (count + 1) ≤ buf.length := by omega
      rw [List.getElem?_eq_none (by omega)]
      simp [this]

/-- The Encoded Buffer is there exactly when `3n` bytes are, and then encodes those. -/
theorem encBuf_spec (pixels : List Byte) (n : Nat) :
    encBuf pixels n = if 3 * n ≤ pixels.length then some ((pixels.take (3 * n)).flatMap encByte) else none := by
  simp only [encBuf, readBytes_spec, Config.bytesPerPixel, Nat.zero_add, List.drop_zero]
  by_cases h : 3 * n ≤ pixels.length
  · simp [h]
  · have : n ≠ 0 := by omega
    simp [h, this]

end Sys2Proof.Machine
end

