-- ==== Sys2Proof/Laws/PerInstr.lean ====
section
/-! SUPPORT. Statements made of each operation as syntax, one lemma per constructor. -/

/-- An operation's encoded control word matches its own row of the opcode table and no other row (30_encoding.md R67). -/
def Sys2Proof.Laws.OwnRow.Statement (i : Sys2Proof.Instr) : Prop :=
  i.row ∈ Sys2Proof.opcodeTable ∧ ∀ r ∈ Sys2Proof.opcodeTable, r.matchesWord i.row.value = true ↔ r = i.row

theorem Sys2Proof.Laws.OwnRow.reset : Sys2Proof.Laws.OwnRow.Statement .reset := by
  unfold Sys2Proof.Laws.OwnRow.Statement; decide

theorem Sys2Proof.Laws.OwnRow.idle : Sys2Proof.Laws.OwnRow.Statement .idle := by
  unfold Sys2Proof.Laws.OwnRow.Statement; decide

theorem Sys2Proof.Laws.OwnRow.load (inData : Sys2Proof.Byte) : Sys2Proof.Laws.OwnRow.Statement (.load inData) := by
  unfold Sys2Proof.Laws.OwnRow.Statement
  simp only [Sys2Proof.Instr.row]; decide

theorem Sys2Proof.Laws.OwnRow.stall : Sys2Proof.Laws.OwnRow.Statement .stall := by
  unfold Sys2Proof.Laws.OwnRow.Statement; decide

theorem Sys2Proof.Laws.OwnRow.emitP0 : Sys2Proof.Laws.OwnRow.Statement .emitP0 := by
  unfold Sys2Proof.Laws.OwnRow.Statement; decide

theorem Sys2Proof.Laws.OwnRow.emitP1 : Sys2Proof.Laws.OwnRow.Statement .emitP1 := by
  unfold Sys2Proof.Laws.OwnRow.Statement; decide

theorem Sys2Proof.Laws.OwnRow.emitP2 : Sys2Proof.Laws.OwnRow.Statement .emitP2 := by
  unfold Sys2Proof.Laws.OwnRow.Statement; decide

theorem Sys2Proof.Laws.OwnRow.emitLast : Sys2Proof.Laws.OwnRow.Statement .emitLast := by
  unfold Sys2Proof.Laws.OwnRow.Statement; decide
end

