-- ==== Sys2Proof/Laws/State.lean ====
section
/-! SUPPORT. One lemma per field per update of State, each true by rfl, so that no proof unfolds a record update. -/

namespace Sys2Proof.Machine

variable (s : State) (b : Byte)

@[simp] theorem toResetState_hold : s.toResetState.hold = 0x00 := rfl
@[simp] theorem toResetState_p : s.toResetState.p = 0 := rfl
@[simp] theorem toResetState_full : s.toResetState.full = false := rfl
@[simp] theorem toResetState_stimulus : s.toResetState.stimulus = s.stimulus := rfl
@[simp] theorem toResetState_cycle : s.toResetState.cycle = s.cycle := rfl
@[simp] theorem toResetState_events : s.toResetState.events = .reset :: s.events := rfl

@[simp] theorem takeByte_hold : (s.takeByte b).hold = b := rfl
@[simp] theorem takeByte_p : (s.takeByte b).p = 0 := rfl
@[simp] theorem takeByte_full : (s.takeByte b).full = true := rfl
@[simp] theorem takeByte_stimulus : (s.takeByte b).stimulus = s.stimulus := rfl
@[simp] theorem takeByte_cycle : (s.takeByte b).cycle = s.cycle := rfl
@[simp] theorem takeByte_events : (s.takeByte b).events = .accept b :: s.events := rfl

@[simp] theorem deliverByte_hold : s.deliverByte.hold = s.hold := rfl
@[simp] theorem deliverByte_p : s.deliverByte.p = s.p := rfl
@[simp] theorem deliverByte_full : s.deliverByte.full = s.full := rfl
@[simp] theorem deliverByte_stimulus : s.deliverByte.stimulus = s.stimulus := rfl
@[simp] theorem deliverByte_cycle : s.deliverByte.cycle = s.cycle := rfl
@[simp] theorem deliverByte_events : s.deliverByte.events = .emit (encPair s.hold s.p) :: s.events := rfl

@[simp] theorem advancePair_hold : s.advancePair.hold = s.hold := rfl
@[simp] theorem advancePair_p : s.advancePair.p = s.p + 1 := rfl
@[simp] theorem advancePair_full : s.advancePair.full = s.full := rfl
@[simp] theorem advancePair_stimulus : s.advancePair.stimulus = s.stimulus := rfl
@[simp] theorem advancePair_cycle : s.advancePair.cycle = s.cycle := rfl
@[simp] theorem advancePair_events : s.advancePair.events = s.events := rfl

@[simp] theorem emptyBlock_hold : s.emptyBlock.hold = s.hold := rfl
@[simp] theorem emptyBlock_p : s.emptyBlock.p = 0 := rfl
@[simp] theorem emptyBlock_full : s.emptyBlock.full = false := rfl
@[simp] theorem emptyBlock_stimulus : s.emptyBlock.stimulus = s.stimulus := rfl
@[simp] theorem emptyBlock_cycle : s.emptyBlock.cycle = s.cycle := rfl
@[simp] theorem emptyBlock_events : s.emptyBlock.events = s.events := rfl

@[simp] theorem nextCycle_hold : s.nextCycle.hold = s.hold := rfl
@[simp] theorem nextCycle_p : s.nextCycle.p = s.p := rfl
@[simp] theorem nextCycle_full : s.nextCycle.full = s.full := rfl
@[simp] theorem nextCycle_stimulus : s.nextCycle.stimulus = s.stimulus.tail := rfl
@[simp] theorem nextCycle_cycle : s.nextCycle.cycle = s.cycle + 1 := rfl
@[simp] theorem nextCycle_events : s.nextCycle.events = s.events := rfl

@[simp] theorem inputs_mk_cons (hold : Byte) (p : PairIndex) (full : Bool) (i : CycleInputs) (rest : List CycleInputs)
    (cycle : Nat) (events : List Event) : (State.mk hold p full (i :: rest) cycle events).inputs = i := rfl

/-- The inputs of a cycle that State lists are the listed ones. -/
theorem inputs_of_stimulus {i : CycleInputs} {rest : List CycleInputs} (h : s.stimulus = i :: rest) :
    s.inputs = i := by
  simp [State.inputs, h]

/-- The inputs of a cycle that State does not list are the free ones (log entry 2). -/
theorem inputs_of_no_stimulus (h : s.stimulus = []) : s.inputs = Config.freeInputs s.cycle := by
  simp [State.inputs, h]

end Sys2Proof.Machine
end

