-- ==== Sys2Proof/Laws/Step.lean ====
section
/-! SUPPORT. What one cycle can do, said once: the provers cite `step_cases` instead of unfolding the step. -/

namespace Sys2Proof.Machine

/-- The state an operation leads to before the edge closes the cycle. -/
def effect (s : State) : Instr → State
  | .reset => s.toResetState
  | .idle => s
  | .load b => s.takeByte b
  | .stall => s
  | .emitP0 => s.deliverByte.advancePair
  | .emitP1 => s.deliverByte.advancePair
  | .emitP2 => s.deliverByte.advancePair
  | .emitLast => s.deliverByte.emptyBlock

theorem exec_eq_effect (i : Instr) (s : State) : exec i s = .next (effect s i) := by
  cases i <;> rfl

theorem step_eq_effect (s : State) : step s = .next (effect s s.operation).nextCycle := by
  simp [step, exec_eq_effect]

theorem step_of_rst {s : State} (hr : s.inputs.rst = true) : step s = .next s.toResetState.nextCycle := by
  simp [step_eq_effect, operation_eq, hr, effect]

theorem step_of_idle {s : State} (hr : s.inputs.rst = false) (hf : s.full = false) (hv : s.inputs.inValid = false) :
    step s = .next s.nextCycle := by
  simp [step_eq_effect, operation_eq, hr, hf, hv, effect]

theorem step_of_load {s : State} (hr : s.inputs.rst = false) (hf : s.full = false) (hv : s.inputs.inValid = true) :
    step s = .next (s.takeByte s.inputs.inData).nextCycle := by
  simp [step_eq_effect, operation_eq, hr, hf, hv, effect]

theorem step_of_stall {s : State} (hr : s.inputs.rst = false) (hf : s.full = true) (ho : s.inputs.outReady = false) :
    step s = .next s.nextCycle := by
  simp [step_eq_effect, operation_eq, hr, hf, ho, effect]

theorem step_of_emit {s : State} (hr : s.inputs.rst = false) (hf : s.full = true) (ho : s.inputs.outReady = true)
    (hp : s.p ≠ 3) : step s = .next s.deliverByte.advancePair.nextCycle := by
  have first : s.p ≠ 3 → s.p = 0 ∨ s.p = 1 ∨ s.p = 2 := by
    generalize s.p = p; revert p; decide
  obtain h | h | h := first hp <;> simp [step_eq_effect, operation_eq, hr, hf, ho, h, effect]

theorem step_of_emitLast {s : State} (hr : s.inputs.rst = false) (hf : s.full = true) (ho : s.inputs.outReady = true)
    (hp : s.p = 3) : step s = .next s.deliverByte.emptyBlock.nextCycle := by
  simp [step_eq_effect, operation_eq, hr, hf, ho, hp, effect]

/-- One cycle, split by the condition that selects its operation (30_encoding.md R67, 41_stream_operations.md R103). -/
theorem step_cases {s t : State} (h : step s = .next t) :
    (s.inputs.rst = true ∧ t = s.toResetState.nextCycle) ∨
    (s.inputs.rst = false ∧ s.full = false ∧ s.inputs.inValid = false ∧ t = s.nextCycle) ∨
    (s.inputs.rst = false ∧ s.full = false ∧ s.inputs.inValid = true ∧ t = (s.takeByte s.inputs.inData).nextCycle) ∨
    (s.inputs.rst = false ∧ s.full = true ∧ s.inputs.outReady = false ∧ t = s.nextCycle) ∨
    (s.inputs.rst = false ∧ s.full = true ∧ s.inputs.outReady = true ∧ s.p ≠ 3 ∧
      t = s.deliverByte.advancePair.nextCycle) ∨
    (s.inputs.rst = false ∧ s.full = true ∧ s.inputs.outReady = true ∧ s.p = 3 ∧
      t = s.deliverByte.emptyBlock.nextCycle) := by
  rw [step_eq_effect, operation_eq] at h
  have last : s.p ≠ 0 → s.p ≠ 1 → s.p ≠ 2 → s.p = 3 := by
    generalize s.p = p; revert p; decide
  injection h with h
  subst h
  cases hr : s.inputs.rst <;> cases hf : s.full <;> cases hv : s.inputs.inValid <;> cases ho : s.inputs.outReady <;>
    simp only [Bool.false_eq_true, if_true, if_false, effect, ne_eq, true_and, false_and, and_false, or_false, false_or,
      reduceCtorEq]
  all_goals
    by_cases h0 : s.p = 0
    · simp [h0]
    · by_cases h1 : s.p = 1
      · simp [h1]
      · by_cases h2 : s.p = 2
        · simp [h2]
        · simp [last h0 h1 h2]

/-- A run of no cycles. -/
@[simp] theorem runCycles_zero (s : State) : runCycles 0 s = .next s := rfl

/-- A run of `n + 1` cycles is a cycle and then a run of `n`. -/
theorem runCycles_succ (n : Nat) (s : State) :
    runCycles (n + 1) s = runCycles n (effect s s.operation).nextCycle := by
  simp [runCycles, step_eq_effect]

/-- A property that every cycle keeps holds at the end of every run from a state that has it. -/
theorem run_keeps {Inv : State → Prop} (keeps : ∀ s t, Inv s → step s = .next t → Inv t) (n : Nat) :
    ∀ s t, Inv s → runCycles n s = .next t → Inv t := by
  induction n with
  | zero =>
    intro s t hs h
    injection h with h
    exact h ▸ hs
  | succ n ih =>
    intro s t hs h
    rw [runCycles_succ] at h
    exact ih _ t (keeps s _ hs (step_eq_effect s)) h

end Sys2Proof.Machine
end

