-- ==== Sys2Proof/Tests/Slice0.lean ====
section
/-! SUPPORT. Tests. Expected values come from spec/: the vectors V1 to V11 and the tables of 95_test_vectors.md, the examples of the
rules named, or words written out from 30_encoding.md R66 and R67. The witnesses meet the hypotheses of the statements of
Certificates/Slice0/Obligations.lean. -/

namespace Sys2Proof.Tests

open Sys2Proof Sys2Proof.Machine

/-- A state with the inputs given listed, cycle 0 and nothing recorded. -/
def at0 (hold : Byte) (p : PairIndex) (full : Bool) (stimulus : List CycleInputs) : State :=
  ⟨hold, p, full, stimulus, 0, []⟩

/-- The next state of an outcome. -/
def nextOf (o : Host.Outcome State Fault Refusal) : Option State :=
  match o with
  | .next t => some t
  | .fault _ => none
  | .refused _ => none

/-! ### Well-formedness -/

theorem test_every_byte_is_a_legal_operand : (Instr.load 0xFF).wf = true := by decide
theorem test_frame_of_one_pixel_is_well_formed : frameWf 1 [0xA5, 0x00, 0xFF] = true := by decide
theorem test_short_frame_is_refused : frameWf 1 [0xA5, 0x00] = false := by decide
theorem test_long_frame_is_refused : frameWf 1 [0xA5, 0x00, 0xFF, 0x99] = false := by decide

/-! ### Decoding: words written out bit by bit from R66 and R67 (`00` then `rst full in_valid out_ready p p`, then `in_data`) -/

theorem test_decode_reset : decode [0b00111110, 0x33] = .ok (.reset, []) := by decide
theorem test_decode_idle : decode [0b00000100, 0x00] = .ok (.idle, []) := by decide
theorem test_decode_load : decode [0b00001100, 0xFF] = .ok (.load 0xFF, []) := by decide
theorem test_decode_stall : decode [0b00011001, 0x12] = .ok (.stall, []) := by decide
theorem test_decode_emitP0 : decode [0b00010100, 0x00] = .ok (.emitP0, []) := by decide
theorem test_decode_emitP1 : decode [0b00011101, 0x00] = .ok (.emitP1, []) := by decide
theorem test_decode_emitP2 : decode [0b00011110, 0x77] = .ok (.emitP2, []) := by decide
theorem test_decode_emitLast : decode [0b00010111, 0x00] = .ok (.emitLast, []) := by decide
theorem test_decode_refuses_no_control_word : decode [0b01000000, 0x00] = .error .notAControlWord := by decide
theorem test_decode_refuses_one_byte : decode [0b00000000] = .error .truncated := by decide
theorem test_encode_load : encode (.load 0xA5) = [0b00001000, 0xA5] := by decide
theorem test_table_word_load : decodeTableWord 16 0xA508 = some (.load 0xA5) := by decide
theorem test_table_word_reset : decodeTableWord 6 0b100000 = some .reset := by decide
theorem test_table_word_none : decodeTableWord 8 0b11000000 = none := by decide

/-- R67 and R68: no two rows of the table match one word. -/
theorem test_rows_do_not_overlap :
    opcodeTable.Pairwise (fun r q => ∀ cw : ControlWord, ¬(r.matchesWord cw = true ∧ q.matchesWord cw = true)) := by
  decide

/-! ### The word placed for the first step after reset is run by it -/

theorem test_first_step_runs_emitLast :
    nextOf (step (State.reset.withFetchWord 8 0b010111)) = some ⟨0x00, 0, false, [], 1, [.emit 0x88]⟩ := by decide
theorem test_first_step_runs_load :
    nextOf (step (State.reset.withFetchWord 16 0xA508)) = some ⟨0xA5, 0, true, [], 1, [.accept 0xA5]⟩ := by decide

/-! ### One cycle of each operation: V1 to V11 of 95_test_vectors.md L2.6 -/

theorem test_V1_reset_while_full :
    nextOf (step (at0 0xA5 2 true [⟨true, true, 0x33, true⟩])) = some ⟨0x00, 0, false, [], 1, [.reset]⟩ := by decide
theorem test_V2_reset_while_empty :
    nextOf (step (at0 0x00 0 false [⟨true, false, 0x00, false⟩])) = some ⟨0x00, 0, false, [], 1, [.reset]⟩ := by decide
theorem test_V3_idle_downstream_asks :
    nextOf (step (at0 0x00 0 false [⟨false, false, 0x00, true⟩])) = some ⟨0x00, 0, false, [], 1, []⟩ := by decide
theorem test_V4_load_out_ready_ignored :
    nextOf (step (at0 0x00 0 false [⟨false, true, 0xFF, true⟩])) = some ⟨0xFF, 0, true, [], 1, [.accept 0xFF]⟩ := by
  decide
theorem test_V5_load_from_unreachable :
    nextOf (step (at0 0x3C 2 false [⟨false, true, 0x81, false⟩])) = some ⟨0x81, 0, true, [], 1, [.accept 0x81]⟩ := by
  decide
theorem test_V6_idle_from_unreachable :
    nextOf (step (at0 0x3C 2 false [⟨false, false, 0x00, false⟩])) = some ⟨0x3C, 2, false, [], 1, []⟩ := by decide
theorem test_V7_stall_offer_not_taken :
    nextOf (step (at0 0xA5 1 true [⟨false, true, 0x12, false⟩])) = some ⟨0xA5, 1, true, [], 1, []⟩ := by decide
theorem test_V8_emitP0 :
    nextOf (step (at0 0xA5 0 true [⟨false, false, 0x00, true⟩])) = some ⟨0xA5, 1, true, [], 1, [.emit 0xC8]⟩ := by decide
/-- The example of 95_test_vectors.md L3, program P1, cycle 4. -/
theorem test_P1_emitP1 :
    nextOf (step (at0 0xA5 1 true [⟨false, false, 0x00, true⟩])) = some ⟨0xA5, 2, true, [], 1, [.emit 0xC8]⟩ := by decide
theorem test_V9_emitP2_offer_not_taken :
    nextOf (step (at0 0xA5 2 true [⟨false, true, 0x77, true⟩])) = some ⟨0xA5, 3, true, [], 1, [.emit 0x8C]⟩ := by decide
theorem test_V10_emitLast_offer_not_taken :
    nextOf (step (at0 0xA5 3 true [⟨false, true, 0x00, true⟩])) = some ⟨0xA5, 0, false, [], 1, [.emit 0x8C]⟩ := by decide
theorem test_V11_emitLast_of_ff :
    nextOf (step (at0 0xFF 3 true [⟨false, false, 0x00, true⟩])) = some ⟨0xFF, 0, false, [], 1, [.emit 0xCC]⟩ := by decide
/-- The outputs of V1, V3, V7: `in_ready` and `out_valid`. -/
theorem test_outputs_of_V1_V3_V7 :
    ((at0 0xA5 2 true [⟨true, true, 0x33, true⟩]).outputs.inReady = false ∧
      (at0 0xA5 2 true [⟨true, true, 0x33, true⟩]).outputs.outValid = false) ∧
    ((at0 0x00 0 false [⟨false, false, 0x00, true⟩]).outputs.inReady = true ∧
      (at0 0x00 0 false [⟨false, false, 0x00, true⟩]).outputs.outValid = false) ∧
    (at0 0xA5 1 true [⟨false, true, 0x12, false⟩]).outputs = ⟨false, true, 0xC8⟩ := by decide

/-! ### The encoding functions: 95_test_vectors.md L1, L2.1, L2.3, L2.4 -/

theorem test_pack_C_8 : pack 0xC 0x8 = 0xC8 := by decide
theorem test_encPair_takes_high_bit_7 : encPair 0x80 0 = 0xC8 ∧ encPair 0x40 0 = 0x8C := by decide
theorem test_encPair_takes_low_bit_0 : encPair 0x01 3 = 0x8C ∧ encPair 0x01 0 = 0x88 := by decide
theorem test_encByte_A5 : encByte 0xA5 = [0xC8, 0xC8, 0x8C, 0x8C] ∧ encWord 0xA5 = 0xC8C88C8C := by decide
theorem test_encPixel_zero : encPixel 0 0 0 = List.replicate 12 0x88 := by decide
theorem test_encBuf_reads_3n_bytes :
    encBuf [0xA5, 0x00, 0xFF, 0x99] 1 =
      some [0xC8, 0xC8, 0x8C, 0x8C, 0x88, 0x88, 0x88, 0x88, 0xCC, 0xCC, 0xCC, 0xCC] := by decide
theorem test_encBuf_refuses_short_pixels : encBuf [0xA5, 0x00] 1 = none := by decide
theorem test_decNibble_outside_the_code : decNibble 0x0 = none ∧ decNibble 0x9 = none ∧ decNibble 0xE = none := by decide
theorem test_decByte_8C : decByte 0x8C = some (false, true) ∧ decByte 0x00 = none ∧ decByte 0x8D = none := by decide
theorem test_decBuf_of_zero_pixel : decBuf (List.replicate 12 0x88) = some [0x00, 0x00, 0x00] := by decide
theorem test_decBuf_not_a_whole_pixel : decBuf (List.replicate 4 0x88) = none := by decide
theorem test_decBuf_non_code_byte : decBuf (List.replicate 11 0x88 ++ [0x00]) = none := by decide

/-! ### Stimulus notation (R69) -/

theorem test_expand_pixel :
    (Program.seq (.stmt .rst) (.repeated 2 (.stmt .nop))).expand = [.rst, .nop, .nop] ∧
    (Program.byte 0xA5).expand = [.put 0xA5, .get, .get, .get, .get] ∧
    (Program.pixel 1 2 3).expand.length = 15 := by decide
theorem test_inputs_of_putGet : (Statement.putGet 0xFF).inputs = ⟨false, true, 0xFF, true⟩ := by decide
/-- The trace row of cycle 3 of program P1. -/
theorem test_trace_row_of_P1 :
    trace 1 (at0 0xA5 0 true [⟨false, false, 0x00, true⟩]) =
      [⟨.emitP0, none, some 0xC8, some 0xC8, 0xA5, 1, true⟩] := by decide

/-! ### Witnesses: states and operands that meet the hypotheses of the statements -/

/-- A cycle of RESET, of IDLE, LOAD, STALL and of each EMIT: the hypotheses of the statements on one cycle. -/
def sReset : State := at0 0xA5 2 true [⟨true, true, 0x33, true⟩, ⟨false, true, 0x81, true⟩, ⟨false, false, 0x00, true⟩]
def sIdle : State := at0 0x00 0 false [⟨false, false, 0x00, true⟩, ⟨false, false, 0x00, false⟩]
def sLoad : State := at0 0x00 0 false [⟨false, true, 0xA5, true⟩, ⟨false, false, 0x00, true⟩, ⟨false, false, 0x00, true⟩,
  ⟨false, true, 0x12, true⟩, ⟨false, false, 0x00, true⟩]
def sStall : State := at0 0xA5 1 true [⟨false, true, 0x12, false⟩, ⟨false, true, 0x12, false⟩]
def sEmit (p : PairIndex) : State := at0 0xA5 p true [⟨false, false, 0x00, true⟩, ⟨false, true, 0x77, true⟩]

theorem witness_StepRunsTheDecodedOperation :
    decode [sLoad.cw.setWidth 8, sLoad.inputs.inData] = .ok (.load 0xA5, []) ∧
      (nextOf (exec (.load 0xA5) sLoad)).isSome = true := by decide
theorem witness_PlacedWordIsTheOperation :
    decodeTableWord 16 0xFF0F = some (.load 0xFF) ∧ decodeTableWord 8 0b00111111 = some .reset := by decide
theorem witness_ResetCycle : sReset.inputs.rst = true := by decide
theorem witness_EmptyAndReadyAfterReset :
    ∃ t, step sReset = .next t ∧ sReset.inputs.rst = true ∧ t.inputs.rst = false := ⟨_, rfl, by decide⟩
theorem witness_OneResetCycleAfterPowerOn : (CycleInputs.mk true false 0x00 false).rst = true := by decide
theorem witness_IdleCycle :
    sIdle.inputs.rst = false ∧ sIdle.full = false ∧ sIdle.inputs.inValid = false ∧ sIdle.EmptyAtPairZero := by decide
theorem witness_LoadCycle :
    ∃ t, step sLoad = .next t ∧ sLoad.inputs.rst = false ∧ sLoad.full = false ∧ sLoad.inputs.inValid = true ∧
      t.inputs.rst = false := ⟨_, rfl, by decide⟩
theorem witness_StallCycle :
    ∃ t, step sStall = .next t ∧ sStall.inputs.rst = false ∧ sStall.full = true ∧ sStall.inputs.outReady = false ∧
      t.inputs.rst = false := ⟨_, rfl, by decide⟩
theorem witness_EmitCycle :
    ∀ p ∈ ([0, 1, 2] : List PairIndex),
      (sEmit p).inputs.rst = false ∧ (sEmit p).full = true ∧ (sEmit p).inputs.outReady = true ∧ (sEmit p).p ≠ 3 := by decide
theorem witness_EmitLastCycle :
    ∃ t, step (sEmit 3) = .next t ∧ (sEmit 3).inputs.rst = false ∧ (sEmit 3).full = true ∧
      (sEmit 3).inputs.outReady = true ∧ (sEmit 3).p = 3 ∧ t.inputs.rst = false := ⟨_, rfl, by decide⟩
theorem witness_QuietCyclesChangeNothing_full :
    sStall.stimulus = sStall.stimulus ++ [] ∧
      ∀ i ∈ sStall.stimulus, i.rst = false ∧ (sStall.full = true → i.outReady = false) ∧
        (sStall.full = false → i.inValid = false) := by decide
theorem witness_QuietCyclesChangeNothing_empty :
    sIdle.stimulus = sIdle.stimulus ++ [] ∧
      ∀ i ∈ sIdle.stimulus, i.rst = false ∧ (sIdle.full = true → i.outReady = false) ∧
        (sIdle.full = false → i.inValid = false) := by decide
theorem witness_DecodeEncodeAgree : (Instr.load 0xFF).wf = true ∧ Instr.emitLast.wf = true := by decide
theorem witness_Priority :
    sReset.inputs.rst = true ∧ (sIdle.inputs.rst = false ∧ sIdle.full = false) ∧
    (sStall.inputs.rst = false ∧ sStall.full = true ∧ sStall.inputs.outReady = false) ∧
    ((sEmit 3).inputs.rst = false ∧ (sEmit 3).full = true ∧ (sEmit 3).inputs.outReady = true) := by decide
theorem witness_ByteFormRejectsByName : 64 ≤ (0x40 : Byte).toNat ∧ ¬64 ≤ (0x3F : Byte).toNat := by decide
theorem witness_OutputsDependOnStateAndResetOnly :
    sStall.hold = (sEmit 1).hold ∧ sStall.p = (sEmit 1).p ∧ sStall.full = (sEmit 1).full ∧
      sStall.inputs.rst = (sEmit 1).inputs.rst ∧ sStall.outputs.outValid = true := by decide
theorem witness_HandshakesExcludeEachOther :
    sReset.inputs.rst = true ∧ sStall.stimulus = ⟨false, true, 0x12, false⟩ :: [⟨false, true, 0x12, false⟩] ∧
      sStall.accept = false := by decide
theorem witness_RecordFollowsTheHandshakes :
    (nextOf (step sReset)).isSome = true ∧ sLoad.accept = true ∧ (sEmit 0).emit = true ∧ sIdle.emit = false := by decide
theorem witness_IgnoredInputs_full :
    ∃ j : CycleInputs, sStall.stimulus = ⟨false, true, 0x12, false⟩ :: [⟨false, true, 0x12, false⟩] ∧
      j = ⟨false, false, 0x99, false⟩ ∧ sStall.full = true ∧ j.rst = false ∧ j.outReady = false := ⟨_, rfl, rfl, by decide⟩
theorem witness_IgnoredInputs_empty :
    ∃ i j : CycleInputs, sIdle.stimulus = [i, ⟨false, false, 0x00, false⟩] ∧ j = ⟨false, false, 0x99, false⟩ ∧
      sIdle.full = false ∧ i.rst = j.rst ∧ i.inValid = j.inValid ∧ i.inValid = false := ⟨_, _, rfl, rfl, by decide⟩
theorem noReset_for_one (s : State) (h : s.inputs.rst = false) : NoResetFor 1 s := by
  intro k u hk hu
  obtain rfl : k = 0 := by omega
  injection hu with hu
  exact hu ▸ h
theorem witness_OutputsAreStable_valid :
    NoResetFor 1 sStall ∧ sStall.outputs.outValid = true ∧ sStall.emit = false ∧
      ∃ t, runCycles 1 sStall = .next t ∧ t.inputs.rst = false :=
  ⟨noReset_for_one _ (by decide), by decide, by decide, _, rfl, by decide⟩
theorem witness_OutputsAreStable_ready :
    NoResetFor 1 sIdle ∧ sIdle.outputs.inReady = true ∧ sIdle.accept = false ∧
      ∃ t, runCycles 1 sIdle = .next t ∧ t.inputs.rst = false :=
  ⟨noReset_for_one _ (by decide), by decide, by decide, _, rfl, by decide⟩
theorem witness_OnlyCodeBytesAreEmitted :
    sStall.outputs.outValid = true ∧ isCodeByte 0x88 = true ∧ isCodeByte 0x89 = false ∧ isCodeByte 0x48 = false := by decide
theorem witness_EmptyAtPairZeroIsKept :
    (sEmit 3).EmptyAtPairZero ∧ sReset.inputs.rst = true ∧ ∃ t, step (sEmit 3) = .next t ∧ t.full = false :=
  ⟨by decide, by decide, _, rfl, rfl⟩
theorem witness_EmptyAtPairZeroWhenReachable :
    sReset.inputs.rst = true ∧ ∃ t, runCycles (0 + 1) sReset = .next t ∧ t.full = false := ⟨by decide, _, rfl, rfl⟩
theorem witness_RecordSoundIsKept :
    (⟨0xA5, 2, true, [⟨false, false, 0x00, true⟩], 3, [.emit 0xC8, .emit 0xC8, .accept 0xA5, .reset]⟩ : State).RecordSound :=
  ⟨[], by decide⟩
theorem witness_FourOutputsPerInput :
    sReset.inputs.rst = true ∧ (∃ t, runCycles (1 + 1) sReset = .next t ∧ t.full = true) ∧
    sLoad.operation = .load 0xA5 ∧ (sEmit 3).full = true ∧ ∃ t, step (sEmit 3) = .next t ∧ t.full = false :=
  ⟨by decide, ⟨_, rfl, rfl⟩, by decide, by decide, _, rfl, rfl⟩
theorem witness_StreamCorrectness_emitted :
    sReset.inputs.rst = true ∧ ∃ t, runCycles (2 + 1) sReset = .next t ∧ t.accepted = [0x81] ∧ t.emitted = [0xC8] :=
  ⟨by decide, _, rfl, by decide⟩
theorem witness_StreamCorrectness_empty :
    sReset.inputs.rst = true ∧ ∃ t, runCycles (0 + 1) sReset = .next t ∧ t.full = false ∧
      3 * 0 ≤ ([0x99] : List Byte).length ∧ t.accepted = ([0x99] : List Byte).take (3 * 0) := ⟨by decide, _, rfl, by decide⟩
theorem witness_LatencyOfOneByte :
    ∃ i0 i1 i2 i3 i4, sLoad.full = false ∧ sLoad.stimulus = [i0, i1, i2, i3, i4] ∧ i0.rst = false ∧ i0.inValid = true ∧
      ∀ i ∈ [i1, i2, i3, i4], i.rst = false ∧ i.outReady = true := ⟨_, _, _, _, _, rfl, rfl, by decide⟩
theorem witness_ThroughputOfTheBlock_bound :
    sLoad.full = false ∧ NoResetFor 1 sLoad ∧ NoResetFor 1 sIdle ∧ (∃ t, runCycles 1 sLoad = .next t) ∧
      ∃ t, runCycles 1 sIdle = .next t ∧ t.full = false :=
  ⟨rfl, noReset_for_one _ (by decide), noReset_for_one _ (by decide), ⟨_, rfl⟩, _, rfl, rfl⟩
theorem witness_ThroughputOfTheBlock_continuous :
    ∃ inputs : List CycleInputs, (at0 0x00 0 false inputs).stimulus = inputs ++ [] ∧ inputs.length = 5 * 1 ∧
      ∀ i ∈ inputs, i.rst = false ∧ i.inValid = true ∧ i.outReady = true :=
  ⟨List.replicate 5 ⟨false, true, 0xFF, true⟩, by decide⟩
theorem witness_FramesAreIndependent :
    sLoad.full = false ∧ (at0 0x3C 2 false sLoad.stimulus).full = false ∧
      sLoad.stimulus = (at0 0x3C 2 false sLoad.stimulus).stimulus ∧ sLoad.cycle = (at0 0x3C 2 false sLoad.stimulus).cycle ∧
      ∃ t, runCycles 1 sLoad = .next t ∧ t.full = true := ⟨rfl, rfl, rfl, rfl, _, rfl, rfl⟩
theorem witness_ByteStatementTrace :
    State.reset.hold = 0x00 ∧ State.reset.p = 0 ∧ State.reset.full = false := by decide
theorem witness_TraceAgreesWithTheRecord : ∃ t, runCycles 1 (sEmit 0) = .next t := ⟨_, rfl⟩
theorem witness_EncodingIsInjective :
    encPair 0xA5 0 = encPair 0x80 0 ∧ encByte 0xA5 = encByte 0xA5 ∧
      encBuf [0xA5, 0x00, 0xFF, 0x99] 1 = encBuf [0xA5, 0x00, 0xFF] 1 ∧ (encBuf [0xA5, 0x00, 0xFF] 1).isSome = true := by decide
theorem witness_EncodedBufferLayout :
    (encBuf [0xA5, 0x00, 0xFF] 1).isSome = true ∧ 23 < 12 * 2 ∧ 23 = 1 * 12 + 2 * 4 + (3 : PairIndex).toNat := by decide
theorem witness_RoundTripOfTheEncodedBuffer :
    3 * 1 ≤ ([0xA5, 0x00, 0xFF, 0x99] : List Byte).length ∧ ([0x88, 0x88, 0x88, 0x88] : List Byte).length % 12 ≠ 0 ∧
      ∃ o ∈ ([0x88, 0x00] : List Byte), decByte o = none := by decide
theorem witness_LedBitOrderOnTheLine :
    (encBuf (frameStream [⟨0xA5, 0x00, 0xFF⟩]) [(⟨0xA5, 0x00, 0xFF⟩ : Pixel)].length).isSome = true := by decide
theorem witness_ZeroBytesAreNotIdle : (at0 0x00 0 true [⟨false, false, 0x00, false⟩]).outputs.outValid = true := by decide
theorem witness_AttemptIsPreambleThenData :
    (attemptBytes ⟨1, 80, 0, 0⟩ [0x00, 0x00, 0x00]).isSome = true ∧ (encBuf [0x00, 0x00, 0x00] 1).isSome = true := by decide
theorem witness_RateConditions : clockKeepsUp ⟨0, 0, 64, 0⟩ 10 ∧ ¬clockKeepsUp ⟨0, 0, 64, 0⟩ 9 := by decide

end Sys2Proof.Tests
end

section
/-! SUPPORT. The state invariant of 10_state.md R26, "`full = 0` implies `p = 0`": established by RESET, kept by every step, and so
true in every state reachable from a reset. -/

namespace Sys2Proof.Machine

/-- The induction over a run that begins with a RESET cycle: what RESET establishes from any state and every step keeps holds at the
end of the run. -/
theorem holds_after_reset {Inv : State → Prop}
    (established : ∀ s t, s.inputs.rst = true → step s = .next t → Inv t)
    (keeps : ∀ s t, Inv s → step s = .next t → Inv t)
    (n : Nat) {s t : State} (hr : s.inputs.rst = true) (h : runCycles (n + 1) s = .next t) : Inv t := by
  rw [runCycles_succ] at h
  exact run_keeps keeps n _ t (established s _ hr (step_eq_effect s)) h

theorem emptyAtPairZero_after_rst {s t : State} (hr : s.inputs.rst = true) (h : step s = .next t) :
    t.EmptyAtPairZero := by
  rw [step_of_rst hr] at h
  injection h with h
  subst h
  simp [State.EmptyAtPairZero]

/-- RESET and EMIT_LAST empty the block and clear `p`; LOAD and EMIT leave it full; IDLE and STALL touch neither element. -/
theorem step_keeps_emptyAtPairZero {s t : State} (hs : s.EmptyAtPairZero) (h : step s = .next t) :
    t.EmptyAtPairZero := by
  obtain ⟨hr, -⟩ | ⟨-, -, -, rfl⟩ | ⟨-, -, -, rfl⟩ | ⟨-, -, -, rfl⟩ | ⟨-, hf, -, -, rfl⟩ | ⟨-, -, -, -, rfl⟩ := step_cases h
  case _ => -- RESET
    exact emptyAtPairZero_after_rst hr h
  case _ => -- IDLE
    exact hs
  case _ => -- LOAD
    simp [State.EmptyAtPairZero]
  case _ => -- STALL
    exact hs
  case _ => -- EMIT
    simp [State.EmptyAtPairZero, hf]
  case _ => -- EMIT_LAST
    simp [State.EmptyAtPairZero]

end Sys2Proof.Machine
end

section
/-! The statements on R26's invariant, settled. -/

namespace Sys2Proof

open Sys2Proof.Machine

/-- Settles O32, by the case of the step (`step_cases`). -/
theorem emptyAtPairZeroIsKept : Obligations.EmptyAtPairZeroIsKept :=
  fun _ _ => step_keeps_emptyAtPairZero

/-- Settles O33, by induction over the run after its RESET cycle. -/
theorem emptyAtPairZeroWhenReachable : Obligations.EmptyAtPairZeroWhenReachable :=
  fun n _ _ hr h =>
    holds_after_reset (fun _ _ => emptyAtPairZero_after_rst) (fun _ _ => step_keeps_emptyAtPairZero) n hr h

/-- Settles O31: the values RESET writes are those of `State.reset` (10_state.md R33). -/
theorem emptyAtPairZeroAtReset : Obligations.EmptyAtPairZeroAtReset :=
  ⟨fun _ => rfl, fun _ _ => emptyAtPairZero_after_rst⟩

end Sys2Proof
end

section
/-! SUPPORT. The model's own fields over one cycle: the inputs listed, the cycle number, the record (log entries 1, 2, 3). -/

namespace Sys2Proof.Machine

@[simp] theorem effect_stimulus (s : State) (i : Instr) : (effect s i).stimulus = s.stimulus := by
  cases i <;> rfl

@[simp] theorem effect_cycle (s : State) (i : Instr) : (effect s i).cycle = s.cycle := by
  cases i <;> rfl

/-- An operation records at most one event, and keeps what was recorded before. -/
theorem effect_events (s : State) (i : Instr) :
    ∃ es : List Event, (effect s i).events = es ++ s.events ∧ es.length ≤ 1 := by
  cases i with
  | reset => exact ⟨[.reset], rfl, le_rfl⟩
  | idle => exact ⟨[], rfl, zero_le_one⟩
  | load b => exact ⟨[.accept b], rfl, le_rfl⟩
  | stall => exact ⟨[], rfl, zero_le_one⟩
  | emitP0 | emitP1 | emitP2 | emitLast => exact ⟨[.emit (encPair s.hold s.p)], rfl, le_rfl⟩

end Sys2Proof.Machine
end

section
/-! SUPPORT. The index map of the encoding: where the output byte of a pair stands (20_memory.md R44, R45). -/

namespace Sys2Proof.Machine

theorem pairIndex_cases (p : PairIndex) : p = 0 ∨ p = 1 ∨ p = 2 ∨ p = 3 := by
  revert p; decide

/-- Output byte `p` of a byte is that of pair `p` (R45). -/
theorem encByte_getElem? (b : Byte) (p : PairIndex) : (encByte b)[p.toNat]? = some (encPair b p) := by
  obtain rfl | rfl | rfl | rfl := pairIndex_cases p <;> rfl

/-- Output byte `4k + p` is that of pair `p` of input byte `k` (R45). -/
theorem flatMap_encByte_getElem? (p : PairIndex) (bytes : List Byte) :
    ∀ k, (bytes.flatMap encByte)[4 * k + p.toNat]? = bytes[k]?.map (encPair · p) := by
  have hp : p.toNat < 4 := p.isLt
  induction bytes with
  | nil => simp
  | cons b rest ih =>
    intro k
    rw [List.flatMap_cons]
    cases k with
    | zero =>
      rw [Nat.mul_zero, Nat.zero_add, List.getElem?_append_left (by rwa [encByte_length]), encByte_getElem?]
      rfl
    | succ k =>
      have later : 4 * (k + 1) + p.toNat - 4 = 4 * k + p.toNat := by omega
      rw [List.getElem?_append_right (by rw [encByte_length]; omega), encByte_length, later, ih, List.getElem?_cons_succ]

/-- Where the Encoded Buffer is defined, and what it then is. -/
theorem encBuf_eq_some_iff {pixels out : List Byte} {n : Nat} :
    encBuf pixels n = some out ↔ 3 * n ≤ pixels.length ∧ (pixels.take (3 * n)).flatMap encByte = out := by
  rw [encBuf_spec, Option.ite_none_right_eq_some, Option.some_inj]

theorem encBuf_length {pixels out : List Byte} {n : Nat} (h : encBuf pixels n = some out) : out.length = 12 * n := by
  obtain ⟨hlen, rfl⟩ := encBuf_eq_some_iff.mp h
  rw [length_flatMap_encByte, List.length_take_of_le hlen]
  omega

/-- Byte `4k + p` of the Encoded Buffer is that of pair `p` of Pixel Sequence byte `k`. -/
theorem encBuf_getElem? {pixels out : List Byte} {n k : Nat} (h : encBuf pixels n = some out) (hk : k < 3 * n)
    (p : PairIndex) : out[4 * k + p.toNat]? = pixels[k]?.map (encPair · p) := by
  obtain ⟨-, rfl⟩ := encBuf_eq_some_iff.mp h
  rw [flatMap_encByte_getElem?, List.getElem?_take_of_lt hk]

/-- Every index of a buffer of `n` pixels is that of a pair of a channel of a pixel (R44). -/
theorem bufferIndex_surjective {n j : Nat} (hj : j < 12 * n) :
    ∃ (i c : Nat) (p : PairIndex), i < n ∧ c < 3 ∧ j = i * 12 + c * 4 + p.toNat := by
  refine ⟨j / 12, j % 12 / 4, BitVec.ofNat 2 (j % 4), by omega, by omega, ?_⟩
  rw [BitVec.toNat_ofNat]
  omega

/-- No two pairs of a frame have the same index (R44). -/
theorem bufferIndex_injective {i c i' c' : Nat} {p p' : PairIndex} (hc : c < 3) (hc' : c' < 3)
    (h : i * 12 + c * 4 + p.toNat = i' * 12 + c' * 4 + p'.toNat) : i = i' ∧ c = c' ∧ p = p' := by
  have hp : p.toNat < 4 := p.isLt
  have hp' : p'.toNat < 4 := p'.isLt
  exact ⟨by omega, by omega, BitVec.eq_of_toNat_eq (by omega)⟩

end Sys2Proof.Machine
end

section
/-! SUPPORT. The bits on the line: encoding replaces every bit of the line by the four bits of its symbol (20_memory.md R46, R47). -/

namespace Sys2Proof.Machine

/-- An output byte on the line is the symbols of its pair's two bits. -/
theorem msbFirst_encPair (b : Byte) (p : PairIndex) :
    msbFirst (encPair b p) = symbolBits (pairHigh b p) ++ symbolBits (pairLow b p) := by
  have packed : ∀ x y, msbFirst (pack (sym x) (sym y)) = symbolBits x ++ symbolBits y := by decide
  exact packed _ _

/-- The output bytes of one byte on the line are the symbols of its bits 7 down to 0. -/
theorem lineBits_encByte (b : Byte) : lineBits (encByte b) = (msbFirst b).flatMap symbolBits := by
  simp only [lineBits, encByte, List.flatMap_cons, List.flatMap_nil, msbFirst_encPair, List.append_nil,
    List.append_assoc]
  rfl

/-- The encoding on the line is the line of the input bytes, each bit replaced by its symbol. -/
theorem lineBits_flatMap_encByte (bytes : List Byte) :
    lineBits (bytes.flatMap encByte) = (lineBits bytes).flatMap symbolBits :=
  calc
    lineBits (bytes.flatMap encByte) = bytes.flatMap fun b => lineBits (encByte b) := List.flatMap_assoc
    _ = bytes.flatMap fun b => (msbFirst b).flatMap symbolBits := by simp only [lineBits_encByte]
    _ = (lineBits bytes).flatMap symbolBits := List.flatMap_assoc.symm

theorem lineBits_length (bytes : List Byte) : (lineBits bytes).length = 8 * bytes.length := by
  simp [lineBits, msbFirst, List.length_flatMap, Nat.mul_comm]

@[simp] theorem frameStream_length (pixels : List Pixel) : (frameStream pixels).length = 3 * pixels.length := by
  simp [frameStream, Pixel.channels, List.length_flatMap, Nat.mul_comm]

/-- The Encoded Buffer of a whole frame encodes all of the frame's stream. -/
theorem encBuf_frameStream (pixels : List Pixel) :
    encBuf (frameStream pixels) pixels.length = some ((frameStream pixels).flatMap encByte) := by
  simp [encBuf_eq_some_iff, List.take_of_length_le]

/-- The stream of a frame sent most significant bit first: G7 to G0, R7 to R0, B7 to B0 of each pixel. -/
theorem lineBits_frameStream (pixels : List Pixel) :
    lineBits (frameStream pixels) = pixels.flatMap fun px => msbFirst px.g ++ msbFirst px.r ++ msbFirst px.b := by
  simp [lineBits, frameStream, Pixel.channels, List.flatMap_assoc]

end Sys2Proof.Machine
end

section
/-! The statements of 20_memory.md, settled. -/

namespace Sys2Proof

open Sys2Proof.Machine

/-- Settles O9: no operation touches the inputs or the cycle number, and each records at most one event. -/
theorem stepFrameOfTheEnvironment : Obligations.StepFrameOfTheEnvironment := by
  intro s t h
  rw [step_eq_effect] at h
  injection h with h
  subst h
  simp only [nextCycle_stimulus, nextCycle_cycle, nextCycle_events, effect_stimulus, effect_cycle, true_and]
  exact effect_events s s.operation

/-- Settles O48: byte `4k + p` encodes pair `p` of byte `k`, at `k = 3i + c`. -/
theorem encodedBufferLayout : Obligations.EncodedBufferLayout := by
  refine ⟨fun pixels n out h => ⟨encBuf_length h, fun i c p hi hc => ?_⟩, fun _ _ => bufferIndex_surjective,
    fun _ _ _ _ _ _ => bufferIndex_injective⟩
  obtain ⟨hlen, -⟩ := encBuf_eq_some_iff.mp h
  have index : i * 12 + c * 4 + p.toNat = 4 * (3 * i + c) + p.toNat := by omega
  have there : pixels[3 * i + c]? = some pixels[3 * i + c] := List.getElem?_eq_getElem (by omega)
  exact ⟨_, there, by rw [index, encBuf_getElem? h (by omega), there, Option.map_some]⟩

/-- Settles O54: the line of the encoding is the frame's own bits, each replaced by its symbol (`lineBits_flatMap_encByte`). -/
theorem ledBitOrderOnTheLine : Obligations.LedBitOrderOnTheLine := by
  intro pixels out h
  constructor
  · rw [encBuf_frameStream, Option.some_inj] at h
    rw [← h, lineBits_flatMap_encByte, lineBits_frameStream, List.flatMap_assoc]
  · rw [lineBits_length, encBuf_length h]
    omega

end Sys2Proof
end

section
/-! SUPPORT. The opcode table and the decode: an operation is its row and its operand (30_encoding.md R66, R67). -/

namespace Sys2Proof

theorem row_mem_opcodeTable (i : Instr) : i.row ∈ opcodeTable := by
  cases i with
  | load b => exact (Laws.OwnRow.load b).1
  | reset | idle | stall | emitP0 | emitP1 | emitP2 | emitLast => decide

/-- The operand selects no row: "`in_data` is not part of `cw`" (R66). -/
theorem row_decodeControl (cw : ControlWord) (d d' : Byte) : (decodeControl cw d).row = (decodeControl cw d').row := by
  unfold decodeControl
  split_ifs <;> rfl

/-- A row of the table matches a control word exactly when it is the row of the decoded operation. -/
theorem matchesWord_iff_eq_row {r : OpcodeRow} (hr : r ∈ opcodeTable) (cw : ControlWord) (d : Byte) :
    r.matchesWord cw = true ↔ r = (decodeControl cw d).row := by
  have words : ∀ cw : ControlWord, ∀ r ∈ opcodeTable, r.matchesWord cw = true ↔ r = (decodeControl cw 0).row := by
    decide
  rw [row_decodeControl cw d 0]
  exact words cw r hr

/-- The byte a decoded LOAD takes is the one on `in_data`. -/
theorem operand_of_decodeControl {cw : ControlWord} {d b : Byte} (h : decodeControl cw d = .load b) : d = b := by
  unfold decodeControl at h
  split_ifs at h
  exact Instr.load.inj h

/-- The pattern of an operation's row, every `x` bit 0, decodes to the operation, with LOAD's operand on `in_data`. -/
theorem decodeControl_row_value {i : Instr} {d : Byte} (hd : ∀ b, i = .load b → d = b) :
    decodeControl i.row.value d = i := by
  cases i with
  | load b =>
    obtain rfl := hd b rfl
    exact decodeControl_controlWord false false true false 0 d
  | reset | idle | stall | emitP0 | emitP1 | emitP2 | emitLast => rfl

/-- The control words that decode to an operation are those its row matches. -/
theorem decodeControl_eq_iff {cw : ControlWord} {d : Byte} {i : Instr} :
    decodeControl cw d = i ↔ i.row.matchesWord cw = true ∧ ∀ b, i = .load b → d = b := by
  rw [matchesWord_iff_eq_row (row_mem_opcodeTable i) cw d]
  constructor
  · rintro rfl
    exact ⟨rfl, fun _ => operand_of_decodeControl⟩
  · rintro ⟨hrow, hd⟩
    calc
      decodeControl cw d = decodeControl (decodeControl cw d).row.value d :=
        (decodeControl_row_value fun _ => operand_of_decodeControl).symm
      _ = decodeControl i.row.value d := by rw [hrow]
      _ = i := decodeControl_row_value hd

/-- Exactly one row of the table matches a control word (R68). -/
theorem countP_matchesWord (cw : ControlWord) : opcodeTable.countP (fun r => r.matchesWord cw) = 1 := by
  have nodup : opcodeTable.Nodup := by decide
  calc
    opcodeTable.countP (fun r => r.matchesWord cw) = opcodeTable.count (decodeControl cw 0).row := by
      refine List.countP_congr fun r hr => ?_
      rw [matchesWord_iff_eq_row hr cw 0, beq_iff_eq]
    _ = 1 := List.count_eq_one_of_mem nodup (row_mem_opcodeTable _)

/-! ### The words of each row by their fields (R68) -/

section
variable (cw : ControlWord)

theorem matchesWord_reset : (Instr.row .reset).matchesWord cw = true ↔ cwRst cw = true := by
  revert cw; decide

theorem matchesWord_idle :
    (Instr.row .idle).matchesWord cw = true ↔ cwRst cw = false ∧ cwFull cw = false ∧ cwInValid cw = false := by
  revert cw; decide

theorem matchesWord_load (b : Byte) :
    (Instr.row (.load b)).matchesWord cw = true ↔ cwRst cw = false ∧ cwFull cw = false ∧ cwInValid cw = true := by
  simp only [Instr.row]; revert cw; decide

theorem matchesWord_stall :
    (Instr.row .stall).matchesWord cw = true ↔ cwRst cw = false ∧ cwFull cw = true ∧ cwOutReady cw = false := by
  revert cw; decide

theorem matchesWord_emitP0 :
    (Instr.row .emitP0).matchesWord cw = true ↔
      cwRst cw = false ∧ cwFull cw = true ∧ cwOutReady cw = true ∧ cwP cw = 0 := by
  revert cw; decide

theorem matchesWord_emitP1 :
    (Instr.row .emitP1).matchesWord cw = true ↔
      cwRst cw = false ∧ cwFull cw = true ∧ cwOutReady cw = true ∧ cwP cw = 1 := by
  revert cw; decide

theorem matchesWord_emitP2 :
    (Instr.row .emitP2).matchesWord cw = true ↔
      cwRst cw = false ∧ cwFull cw = true ∧ cwOutReady cw = true ∧ cwP cw = 2 := by
  revert cw; decide

theorem matchesWord_emitLast :
    (Instr.row .emitLast).matchesWord cw = true ↔
      cwRst cw = false ∧ cwFull cw = true ∧ cwOutReady cw = true ∧ cwP cw = 3 := by
  revert cw; decide

end

/-! ### The byte form (log entry 5) -/

/-- A first byte holds a control word exactly when it is below 64. -/
theorem highBits_eq_zero_iff (c : Byte) : c.extractLsb' 6 2 = 0 ↔ c.toNat < 64 := by
  have hc : c.toNat < 256 := c.isLt
  rw [← BitVec.toNat_inj, BitVec.extractLsb'_toNat, Nat.shiftRight_eq_div_pow]
  change c.toNat / 2 ^ 6 % 2 ^ 2 = 0 ↔ _
  omega

theorem decode_of_lt {c : Byte} (hc : c.toNat < 64) (d : Byte) (rest : List Byte) :
    decode (c :: d :: rest) = .ok (decodeControl (c.extractLsb' 0 6) d, rest) :=
  if_pos ((highBits_eq_zero_iff c).mpr hc)

theorem decode_of_le {c : Byte} (hc : 64 ≤ c.toNat) (d : Byte) (rest : List Byte) :
    decode (c :: d :: rest) = .error .notAControlWord :=
  if_neg fun h => absurd ((highBits_eq_zero_iff c).mp h) (Nat.not_lt.mpr hc)

/-- A control word with its data byte decodes to its operation. -/
theorem decode_setWidth (cw : ControlWord) (d : Byte) (rest : List Byte) :
    decode (cw.setWidth 8 :: d :: rest) = .ok (decodeControl cw d, rest) := by
  have small : (cw.setWidth 8).toNat < 64 := by
    have := cw.isLt
    rw [BitVec.toNat_setWidth]; omega
  have low : (cw.setWidth 8).extractLsb' 0 6 = cw := by
    revert cw; decide
  rw [decode_of_lt small, low]

theorem decode_encode (i : Instr) (rest : List Byte) : decode (encode i ++ rest) = .ok (i, rest) := by
  have operand : ∀ b, i = .load b → i.operandByte = b := by
    rintro b rfl; rfl
  calc
    decode (encode i ++ rest) = .ok (decodeControl i.row.value i.operandByte, rest) := decode_setWidth ..
    _ = .ok (i, rest) := by rw [decodeControl_row_value operand]

/-- What a table word's operation is: the decode of its bits 5:0 with its bits 15:8 on `in_data`. -/
theorem eq_of_decodeTableWord {nbits w : Nat} {i : Instr} (h : decodeTableWord nbits w = some i) :
    decodeControl (BitVec.ofNat 6 (w % 2 ^ nbits)) (BitVec.ofNat 8 (w % 2 ^ nbits / 256)) = i := by
  unfold decodeTableWord at h
  generalize w % 2 ^ nbits = word at h ⊢
  have low : (BitVec.ofNat 8 word).extractLsb' 0 6 = BitVec.ofNat 6 word := by
    apply BitVec.eq_of_toNat_eq
    simp
  obtain hc | hc := Nat.lt_or_ge (BitVec.ofNat 8 word).toNat 64
  · rw [decode_of_lt hc, low] at h
    exact Option.some.inj (Option.ite_none_right_eq_some.mp h).2
  · rw [decode_of_le hc] at h
    cases h

end Sys2Proof
end

section
/-! SUPPORT. The code bytes and the checker (30_encoding.md R64, 40_symbol_encode.md R88, R89). -/

namespace Sys2Proof.Machine

theorem isCodeByte_iff_and (o : Byte) : isCodeByte o = true ↔ o &&& 0xBB = 0x88 := beq_iff_eq

/-- The four code bytes. -/
theorem isCodeByte_iff_mem (o : Byte) : isCodeByte o = true ↔ o = 0x88 ∨ o = 0x8C ∨ o = 0xC8 ∨ o = 0xCC := by
  revert o; decide

theorem isCodeByte_pack_sym (x y : Bool) : isCodeByte (pack (sym x) (sym y)) = true := by
  revert x y; decide

theorem isCodeByte_encPair (b : Byte) (p : PairIndex) : isCodeByte (encPair b p) = true :=
  isCodeByte_pack_sym ..

/-- The symbols are the two nibbles of the table of R60. -/
theorem exists_eq_sym_iff (x : Symbol) : (∃ b, x = sym b) ↔ x = 0x8 ∨ x = 0xC := by
  rw [Bool.exists_bool, sym_false, sym_true]

/-- The checker reads a bit from that bit's symbol only (R88). -/
theorem decNibble_eq_some_iff {s : Symbol} {x : Bool} : decNibble s = some x ↔ s = sym x := by
  revert s x; decide

/-- A byte is its two nibbles, packed. -/
theorem pack_nibbles (o : Byte) : pack (o.extractLsb' 4 4) (o.extractLsb' 0 4) = o := by
  revert o; decide

/-- The checker reads a pair from that pair's code byte only (R89). -/
theorem eq_pack_of_decByte {o : Byte} {d : Bool × Bool} (h : decByte o = some d) : o = pack (sym d.1) (sym d.2) := by
  unfold decByte at h
  split at h
  case h_1 hb lb hhigh hlow =>
    obtain rfl := Option.some.inj h
    rw [← decNibble_eq_some_iff.mp hhigh, ← decNibble_eq_some_iff.mp hlow, pack_nibbles]
  case h_2 => cases h

theorem decByte_eq_none {o : Byte} (h : isCodeByte o = false) : decByte o = none := by
  by_contra hne
  obtain ⟨d, hd⟩ := Option.ne_none_iff_exists'.mp hne
  rw [eq_pack_of_decByte hd, isCodeByte_pack_sym] at h
  cases h

end Sys2Proof.Machine
end

section
/-! SUPPORT. What a cycle records is what the handshakes moved (41_stream_operations.md R102; log entry 3), and so what its row of
the trace shows (30_encoding.md R69). -/

namespace Sys2Proof.Machine

theorem accept_eq (s : State) : s.accept = (s.inputs.inValid && (!s.inputs.rst && !s.full)) := rfl

theorem emit_eq (s : State) : s.emit = ((!s.inputs.rst && s.full) && s.inputs.outReady) := rfl

/-- What passes the ports at the edge that closes the cycle, by the handshake equations. -/
def State.portEvents (s : State) : List Event :=
  if s.inputs.rst then [.reset]
  else if s.accept then [.accept s.inputs.inData]
  else if s.emit then [.emit s.outputs.outData]
  else []

theorem step_events {s t : State} (h : step s = .next t) : t.events = s.portEvents ++ s.events := by
  obtain ⟨hr, rfl⟩ | ⟨hr, hf, hv, rfl⟩ | ⟨hr, hf, hv, rfl⟩ | ⟨hr, hf, ho, rfl⟩ | ⟨hr, hf, ho, -, rfl⟩ |
    ⟨hr, hf, ho, -, rfl⟩ := step_cases h
  case _ => -- RESET
    simp [State.portEvents, hr]
  case _ => -- IDLE
    simp [State.portEvents, accept_eq, emit_eq, hr, hf, hv]
  case _ => -- LOAD
    simp [State.portEvents, accept_eq, hr, hf, hv]
  case _ => -- STALL
    simp [State.portEvents, accept_eq, emit_eq, hr, hf, ho]
  case _ => -- EMIT
    simp [State.portEvents, accept_eq, emit_eq, hr, hf, ho, State.outputs]
  case _ => -- EMIT_LAST
    simp [State.portEvents, accept_eq, emit_eq, hr, hf, ho, State.outputs]

/-- In a RESET cycle no handshake fires. -/
theorem no_handshake_of_rst {s : State} (hr : s.inputs.rst = true) : s.accept = false ∧ s.emit = false := by
  simp [accept_eq, emit_eq, hr]

/-- At most one handshake fires: one needs an empty block, the other a full one. -/
theorem emit_eq_false_of_accept {s : State} (ha : s.accept = true) : s.emit = false := by
  cases hf : s.full <;> simp [accept_eq, emit_eq, hf] at ha ⊢

/-- The row of a cycle shows the bytes that passed the ports in it. -/
theorem traceRow_shows_portEvents (s t : State) :
    [traceRow s t].filterMap TraceRow.accepted = s.portEvents.reverse.filterMap Event.acceptedByte ∧
    [traceRow s t].filterMap TraceRow.emitted = s.portEvents.reverse.filterMap Event.emittedByte := by
  unfold State.portEvents traceRow
  cases hr : s.inputs.rst
  case true => simp [no_handshake_of_rst hr]
  case false =>
    cases ha : s.accept
    case true => simp [emit_eq_false_of_accept ha]
    case false => cases he : s.emit <;> simp

@[simp] theorem trace_zero (s : State) : trace 0 s = [] := rfl

theorem trace_succ {s t : State} (h : step s = .next t) (n : Nat) : trace (n + 1) s = traceRow s t :: trace n t := by
  simp only [trace, h]

/-- A trace has one row a cycle: no cycle faults or refuses. -/
@[simp] theorem trace_length (n : Nat) : ∀ s, (trace n s).length = n := by
  induction n with
  | zero => exact fun _ => rfl
  | succ n ih => exact fun s => by rw [trace_succ (step_eq_effect s), List.length_cons, ih]

/-- The row of a LOAD cycle. -/
theorem traceRow_of_load {s : State} (hr : s.inputs.rst = false) (hf : s.full = false) (hv : s.inputs.inValid = true)
    (t : State) :
    traceRow s t = ⟨.load s.inputs.inData, some s.inputs.inData, none, none, t.hold, t.p, t.full⟩ := by
  simp [traceRow, operation_eq, accept_eq, emit_eq, State.outputs, outValid, hr, hf, hv]

/-- The row of an EMIT or EMIT_LAST cycle. -/
theorem traceRow_of_emit {s : State} (hr : s.inputs.rst = false) (hf : s.full = true) (ho : s.inputs.outReady = true)
    (t : State) :
    traceRow s t =
      ⟨s.operation, none, some (encPair s.hold s.p), some (encPair s.hold s.p), t.hold, t.p, t.full⟩ := by
  simp [traceRow, accept_eq, emit_eq, State.outputs, outValid, hr, hf, ho]

/-- The bytes a trace shows are those its run added to the record. -/
theorem trace_shows_events (n : Nat) :
    ∀ s t, runCycles n s = .next t →
      ∃ es : List Event, t.events = es ++ s.events ∧
        (trace n s).filterMap TraceRow.accepted = es.reverse.filterMap Event.acceptedByte ∧
        (trace n s).filterMap TraceRow.emitted = es.reverse.filterMap Event.emittedByte := by
  induction n with
  | zero =>
    intro s t h
    injection h with h
    exact ⟨[], by rw [h, List.nil_append], rfl, rfl⟩
  | succ n ih =>
    intro s t h
    have first := step_eq_effect s
    rw [runCycles_succ] at h
    obtain ⟨es, hes, haccepted, hemitted⟩ := ih _ t h
    obtain ⟨hrowAccepted, hrowEmitted⟩ := traceRow_shows_portEvents s (effect s s.operation).nextCycle
    refine ⟨es ++ s.portEvents, by rw [hes, step_events first, List.append_assoc], ?_, ?_⟩
    · rw [trace_succ first, List.reverse_append, List.filterMap_append, ← hrowAccepted, ← haccepted,
        ← List.filterMap_append]
      rfl
    · rw [trace_succ first, List.reverse_append, List.filterMap_append, ← hrowEmitted, ← hemitted,
        ← List.filterMap_append]
      rfl

end Sys2Proof.Machine
end

section
/-! SUPPORT. One byte through the block in five cycles, and then a stream of bytes (41_stream_operations.md R112 to R115). -/

namespace Sys2Proof.Machine

theorem runCycles_of_step {s t : State} (h : step s = .next t) (n : Nat) : runCycles (n + 1) s = runCycles n t := by
  simp only [runCycles, h]

/-- A run goes on from where its first part ended. -/
theorem runCycles_add {m : Nat} (n : Nat) :
    ∀ {s t : State}, runCycles m s = .next t → runCycles (m + n) s = runCycles n t := by
  induction m with
  | zero =>
    intro s t h
    injection h with h
    rw [h, Nat.zero_add]
  | succ m ih =>
    intro s t h
    rw [runCycles_succ] at h
    rw [Nat.succ_add, runCycles_succ, ih h]

section
variable {i : CycleInputs} (rest : List CycleInputs) (hold : Byte) (cycle : Nat) (es : List Event)

/-- A LOAD cycle, on a state written out. -/
theorem step_mk_load (p : PairIndex) (hr : i.rst = false) (hv : i.inValid = true) :
    step ⟨hold, p, false, i :: rest, cycle, es⟩ =
      .next ⟨i.inData, 0, true, rest, cycle + 1, .accept i.inData :: es⟩ :=
  step_of_load hr rfl hv

/-- An EMIT cycle, on a state written out. -/
theorem step_mk_emit (p : PairIndex) {q : PairIndex} (hq : p ≠ 3 ∧ p + 1 = q) (hr : i.rst = false)
    (ho : i.outReady = true) :
    step ⟨hold, p, true, i :: rest, cycle, es⟩ =
      .next ⟨hold, q, true, rest, cycle + 1, .emit (encPair hold p) :: es⟩ :=
  hq.2 ▸ step_of_emit hr rfl ho hq.1

/-- An EMIT_LAST cycle, on a state written out. -/
theorem step_mk_emitLast (hr : i.rst = false) (ho : i.outReady = true) :
    step ⟨hold, 3, true, i :: rest, cycle, es⟩ =
      .next ⟨hold, 0, false, rest, cycle + 1, .emit (encPair hold 3) :: es⟩ :=
  step_of_emitLast hr rfl ho rfl

end

/-- A byte accepted by an empty block leaves it in its four output bytes in the next four cycles, the downstream ready (R114). -/
theorem runCycles_one_byte {s : State} {i0 i1 i2 i3 i4 : CycleInputs} {rest : List CycleInputs} (hf : s.full = false)
    (hs : s.stimulus = i0 :: i1 :: i2 :: i3 :: i4 :: rest) (hr0 : i0.rst = false) (hv0 : i0.inValid = true)
    (ready : ∀ i ∈ [i1, i2, i3, i4], i.rst = false ∧ i.outReady = true) :
    runCycles 5 s =
      .next ⟨i0.inData, 0, false, rest, s.cycle + 5, (byteEvents i0.inData).reverse ++ s.events⟩ := by
  obtain ⟨hold, p, full, stimulus, cycle, es⟩ := s
  obtain rfl : full = false := hf
  obtain rfl : stimulus = _ := hs
  simp only [List.forall_mem_cons] at ready
  obtain ⟨⟨hr1, ho1⟩, ⟨hr2, ho2⟩, ⟨hr3, ho3⟩, ⟨hr4, ho4⟩, -⟩ := ready
  rw [runCycles_of_step (step_mk_load _ _ _ _ _ hr0 hv0),
    runCycles_of_step (step_mk_emit _ _ _ _ 0 (q := 1) (by decide) hr1 ho1),
    runCycles_of_step (step_mk_emit _ _ _ _ 1 (q := 2) (by decide) hr2 ho2),
    runCycles_of_step (step_mk_emit _ _ _ _ 2 (q := 3) (by decide) hr3 ho3),
    runCycles_of_step (step_mk_emitLast _ _ _ _ hr4 ho4)]
  rfl

/-- The inputs of `BYTE b` (30_encoding.md R69). -/
abbrev byteInputs (b : Byte) : List CycleInputs := (byteStatements b).map Statement.inputs

theorem runCycles_byteInputs {s : State} {b : Byte} {rest : List CycleInputs} (hf : s.full = false)
    (hs : s.stimulus = byteInputs b ++ rest) :
    runCycles 5 s = .next ⟨b, 0, false, rest, s.cycle + 5, (byteEvents b).reverse ++ s.events⟩ :=
  runCycles_one_byte (i0 := (Statement.put b).inputs) hf hs rfl rfl (by decide)

/-- The trace of `BYTE b` from an empty block. -/
theorem trace_byteInputs {s : State} {b : Byte} {rest : List CycleInputs} (hf : s.full = false)
    (hs : s.stimulus = byteInputs b ++ rest) :
    trace 5 s =
      [⟨.load b, some b, none, none, b, 0, true⟩,
       ⟨.emitP0, none, some (encPair b 0), some (encPair b 0), b, 1, true⟩,
       ⟨.emitP1, none, some (encPair b 1), some (encPair b 1), b, 2, true⟩,
       ⟨.emitP2, none, some (encPair b 2), some (encPair b 2), b, 3, true⟩,
       ⟨.emitLast, none, some (encPair b 3), some (encPair b 3), b, 0, false⟩] := by
  obtain ⟨hold, p, full, stimulus, cycle, es⟩ := s
  obtain rfl : full = false := hf
  obtain rfl : stimulus = _ := hs
  simp only [byteInputs, byteStatements, List.map_cons, List.cons_append]
  rw [trace_succ (step_mk_load _ _ _ _ _ rfl rfl),
    trace_succ (step_mk_emit _ _ _ _ 0 (q := 1) (by decide) rfl rfl),
    trace_succ (step_mk_emit _ _ _ _ 1 (q := 2) (by decide) rfl rfl),
    trace_succ (step_mk_emit _ _ _ _ 2 (q := 3) (by decide) rfl rfl),
    trace_succ (step_mk_emitLast _ _ _ _ rfl rfl),
    traceRow_of_load rfl rfl rfl, traceRow_of_emit rfl rfl rfl, traceRow_of_emit rfl rfl rfl,
    traceRow_of_emit rfl rfl rfl, traceRow_of_emit rfl rfl rfl]
  simp [operation_eq, Statement.inputs]

/-- Bytes presented one after the other pass an empty block one after the other, five cycles each. -/
theorem runCycles_bytes (rest : List CycleInputs) (bytes : List Byte) :
    ∀ s : State, s.full = false → s.p = 0 → s.stimulus = bytes.flatMap byteInputs ++ rest →
      ∃ hold, runCycles (5 * bytes.length) s =
        .next ⟨hold, 0, false, rest, s.cycle + 5 * bytes.length, (bytes.flatMap byteEvents).reverse ++ s.events⟩ := by
  induction bytes with
  | nil =>
    rintro ⟨hold, p, full, stimulus, cycle, es⟩ hf hp hs
    obtain ⟨rfl, rfl, rfl⟩ : full = false ∧ p = 0 ∧ stimulus = rest := ⟨hf, hp, hs⟩
    exact ⟨hold, rfl⟩
  | cons b bytes ih =>
    intro s hf hp hs
    rw [List.flatMap_cons, List.append_assoc] at hs
    obtain ⟨hold, hrun⟩ := ih ⟨b, 0, false, bytes.flatMap byteInputs ++ rest, s.cycle + 5,
      (byteEvents b).reverse ++ s.events⟩ rfl rfl rfl
    refine ⟨hold, ?_⟩
    rw [List.length_cons, Nat.mul_succ, Nat.add_comm, runCycles_add _ (runCycles_byteInputs hf hs), hrun,
      List.flatMap_cons, List.reverse_append, List.append_assoc, Nat.add_assoc]

/-- A record with no RESET in its newer part: all of that part is since the last RESET. -/
theorem sinceReset_append {es : List Event} (earlier : List Event) (h : .reset ∉ es) :
    sinceReset (es ++ earlier) = sinceReset earlier ++ es.reverse := by
  induction es with
  | nil => simp
  | cons e es ih =>
    obtain ⟨he, hes⟩ := not_or.mp (mt List.mem_cons.mpr h)
    cases e with
    | reset => exact absurd rfl he
    | accept b | emit b => simp [ih hes]

theorem reset_not_mem_flatMap_byteEvents (bytes : List Byte) : .reset ∉ bytes.flatMap byteEvents := by
  simp [byteEvents]

/-- The bytes taken in the handshakes of whole bytes. -/
theorem accepted_flatMap_byteEvents (bytes : List Byte) :
    (bytes.flatMap byteEvents).filterMap Event.acceptedByte = bytes := by
  induction bytes with
  | nil => rfl
  | cons b bytes ih =>
    rw [List.flatMap_cons, List.filterMap_append, ih]
    rfl

/-- The bytes delivered in the handshakes of whole bytes: their encoding. -/
theorem emitted_flatMap_byteEvents (bytes : List Byte) :
    (bytes.flatMap byteEvents).filterMap Event.emittedByte = bytes.flatMap encByte := by
  induction bytes with
  | nil => rfl
  | cons b bytes ih =>
    rw [List.flatMap_cons, List.filterMap_append, ih, List.flatMap_cons]
    rfl

/-- The program of a frame presents the bytes of its stream, each as `BYTE` does. -/
theorem expand_frameProgram (pixels : List Pixel) :
    (frameProgram pixels).expand = (frameStream pixels).flatMap byteStatements := by
  induction pixels with
  | nil => rfl
  | cons px pixels ih => simp [frameProgram, Program.expand, ih, frameStream, Pixel.channels]

end Sys2Proof.Machine
end

section
/-! The statements of 30_encoding.md, settled. -/

namespace Sys2Proof

open Sys2Proof.Machine

/-- Settles O19: an operation is its row and its operand (`decodeControl_eq_iff`), and so is its encoding. -/
theorem decodeEncodeAgree : Obligations.DecodeEncodeAgree := by
  intro i rest _
  refine ⟨decode_encode i rest, fun cw d => ?_⟩
  rw [decode_setWidth, Except.ok.injEq, Prod.mk.injEq, and_iff_left rfl]
  exact decodeControl_eq_iff

/-- Settles O7: the placed state's control word has the fields of the word's own (`controlWord_fields`). -/
theorem placedWordIsTheOperation : Obligations.PlacedWordIsTheOperation := by
  intro s nbits w i h
  have placed : (s.withFetchWord nbits w).cw = BitVec.ofNat 6 (w % 2 ^ nbits) := controlWord_fields _
  refine ⟨?_, rfl, rfl, rfl, rfl⟩
  rw [State.operation, placed]
  exact eq_of_decodeTableWord h

/-- Settles O20: the operand selects no row, and for each of the 64 words one row is selected (`matchesWord_iff_eq_row`). -/
theorem decodeIsTheSingleMatchingRow : Obligations.DecodeIsTheSingleMatchingRow :=
  fun cw d => ⟨row_mem_opcodeTable _, fun _ hr => matchesWord_iff_eq_row hr cw d⟩

/-- Settles O21: the counts are those of the 64 words; what is ignored is what the decode of the fields does not read. -/
theorem decodeIsTotalAndExclusive : Obligations.DecodeIsTotalAndExclusive := by
  have listed : ∀ cw : ControlWord, cw ∈ (List.range 64).map (BitVec.ofNat 6) := by decide
  refine ⟨fun cw => ⟨listed cw, countP_matchesWord cw⟩, by decide, by decide, by decide, by decide, by decide, by decide,
    by decide, by decide, fun cw => ?_, fun x y v p d => ?_⟩
  · exact ⟨matchesWord_reset cw, matchesWord_idle cw, matchesWord_load cw 0, matchesWord_stall cw, matchesWord_emitP0 cw,
      matchesWord_emitP1 cw, matchesWord_emitP2 cw, matchesWord_emitLast cw⟩
  · simp only [decodeControl_controlWord, Bool.false_eq_true, if_false, if_true, and_self]

/-- Settles O23, by evaluation of the byte form. -/
theorem wordsWrittenOutDecode : Obligations.WordsWrittenOutDecode := by
  unfold Obligations.WordsWrittenOutDecode
  decide

/-- Settles O24: bits 7:6 of a byte of 64 or more are not 0. -/
theorem byteFormRejectsByName : Obligations.ByteFormRejectsByName :=
  ⟨fun _ d rest hc => decode_of_le hc d rest, rfl, fun _ => rfl⟩

/-- Settles O30: what the block delivers is two symbols packed, and the checker decodes nothing else. -/
theorem onlyCodeBytesAreEmitted : Obligations.OnlyCodeBytesAreEmitted :=
  ⟨isCodeByte_iff_mem, isCodeByte_iff_and, fun s _ => isCodeByte_encPair s.hold s.p, fun _ => decByte_eq_none, rfl,
    exists_eq_sym_iff⟩

/-- Settles O41: the program presents the frame's stream byte by byte, and each byte passes in five cycles (`runCycles_bytes`). -/
theorem frameProgramEmitsTheEncodedBuffer : Obligations.FrameProgramEmitsTheEncodedBuffer := by
  intro pixels
  have presented : (State.reset.withProgram (frameProgram pixels)).stimulus =
      (frameStream pixels).flatMap byteInputs ++ [] := by
    rw [List.append_nil, ← List.map_flatMap, ← expand_frameProgram]
    rfl
  obtain ⟨hold, hrun⟩ := runCycles_bytes [] (frameStream pixels) _ rfl rfl presented
  rw [frameStream_length] at hrun
  have record : sinceReset (((frameStream pixels).flatMap byteEvents).reverse ++ []) =
      (frameStream pixels).flatMap byteEvents := by
    rw [sinceReset_append _ (by rw [List.mem_reverse]; exact reset_not_mem_flatMap_byteEvents _), List.reverse_reverse]
    rfl
  refine ⟨_, hrun, rfl, rfl, rfl, ?_, ?_⟩
  · exact (congrArg _ record).trans (accepted_flatMap_byteEvents _)
  · rw [encBuf_frameStream, Option.some_inj, ← emitted_flatMap_byteEvents]
    exact (congrArg _ record).symm

/-- Settles O43, by induction on the run: each row shows what its cycle recorded. -/
theorem traceAgreesWithTheRecord : Obligations.TraceAgreesWithTheRecord :=
  fun n s t h => ⟨trace_length n s, trace_shows_events n s t h⟩

/-- Settles O42: `trace_byteInputs` gives the rows, `runCycles_byteInputs` the state they end in. -/
theorem byteStatementTrace : Obligations.ByteStatementTrace := by
  rintro ⟨hold, p, full, stimulus, cycle, es⟩ b hhold hp hf
  obtain ⟨rfl, rfl, rfl⟩ : hold = 0x00 ∧ p = 0 ∧ full = false := ⟨hhold, hp, hf⟩
  intro rows
  have shown : rows = _ := trace_byteInputs (b := b) (rest := []) rfl rfl
  rw [shown]
  exact ⟨rfl, rfl, rfl, _, runCycles_byteInputs (rest := []) rfl rfl, rfl, rfl, rfl⟩

/-- Settles O44, for each of the two bits. -/
theorem symbolLayout : Obligations.SymbolLayout := by
  intro x
  cases x <;> decide

end Sys2Proof
end

section
/-! SUPPORT. The bits of an output byte and of a byte's 32-bit word (40_symbol_encode.md R82, R83). -/

namespace Sys2Proof.Machine

theorem pack_sym_eq (x y : Bool) :
    pack (sym x) (sym y) = 0x88 ||| ((BitVec.ofBool x).setWidth 8 <<< 6) ||| ((BitVec.ofBool y).setWidth 8 <<< 2) := by
  revert x y; decide

/-- Bit 6 of an output byte is the high bit of its pair (R82). -/
theorem getLsbD_encPair_six (b : Byte) (p : PairIndex) : (encPair b p).getLsbD 6 = pairHigh b p := by
  have packed : ∀ x y, (pack (sym x) (sym y)).getLsbD 6 = x := by decide
  exact packed _ _

/-- Bit 2 of an output byte is the low bit of its pair (R82). -/
theorem getLsbD_encPair_two (b : Byte) (p : PairIndex) : (encPair b p).getLsbD 2 = pairLow b p := by
  have packed : ∀ x y, (pack (sym x) (sym y)).getLsbD 2 = y := by decide
  exact packed _ _

/-- The bytes of a word joined of four, from the most significant. -/
theorem extractLsb'_four_bytes (b0 b1 b2 b3 : Byte) (p : PairIndex) :
    some ((b0 ++ b1 ++ b2 ++ b3).extractLsb' (24 - 8 * p.toNat) 8) = [b0, b1, b2, b3][p.toNat]? := by
  obtain rfl | rfl | rfl | rfl := pairIndex_cases p <;> simp only [BitVec.extractLsb'_append_eq_ite] <;> simp

/-- Byte `p` of the word, from the most significant, is the output byte of pair `p` (R83). -/
theorem extractLsb'_encWord (b : Byte) (p : PairIndex) :
    (encWord b).extractLsb' (24 - 8 * p.toNat) 8 = encPair b p :=
  Option.some_inj.mp ((extractLsb'_four_bytes ..).trans (encByte_getElem? b p))

/-- Every bit of a byte is the high or the low bit of a pair (R42). -/
theorem exists_pair_of_bit {j : Nat} (hj : j < 8) : ∃ p : PairIndex, j = 7 - 2 * p.toNat ∨ j = 6 - 2 * p.toNat :=
  ⟨BitVec.ofNat 2 (3 - j / 2), by rw [BitVec.toNat_ofNat]; omega⟩

/-- Bit `i` of byte `p` of the word is bit `i` of the output byte of pair `p` (R83). -/
theorem getLsbD_encWord_of_byte (b : Byte) (p : PairIndex) {i : Nat} (hi : i < 8) :
    (encWord b).getLsbD (24 - 8 * p.toNat + i) = (encPair b p).getLsbD i := by
  rw [← extractLsb'_encWord, BitVec.getLsbD_extractLsb', decide_eq_true hi, Bool.true_and]

/-- Bit `4j + 2` of the word is bit `j` of the byte: of the output byte of `j`'s pair it is bit 6 or bit 2 (R83). -/
theorem getLsbD_encWord (b : Byte) {j : Nat} (hj : j < 8) : (encWord b).getLsbD (4 * j + 2) = b.getLsbD j := by
  obtain ⟨p, rfl | rfl⟩ := exists_pair_of_bit hj
  · have index : 4 * (7 - 2 * p.toNat) + 2 = 24 - 8 * p.toNat + 6 := by omega
    rw [index, getLsbD_encWord_of_byte b p (by decide), getLsbD_encPair_six, pairHigh]
  · have index : 4 * (6 - 2 * p.toNat) + 2 = 24 - 8 * p.toNat + 2 := by omega
    rw [index, getLsbD_encWord_of_byte b p (by decide), getLsbD_encPair_two, pairLow]

theorem encWord_eq_sum (b : Byte) :
    encWord b = 0x88888888 |||
      (List.range 8).foldl (fun w j => w + ((BitVec.ofBool (b.getLsbD j)).setWidth 32 <<< (4 * j + 2))) 0 := by
  revert b; decide

end Sys2Proof.Machine
end

section
/-! SUPPORT. The checker inverts the encoding and reads nothing else: of a pair, of a byte, of a sequence, of an Encoded Buffer
(40_symbol_encode.md R89, R90). -/

namespace Sys2Proof.Machine

/-- Reading an output byte gives back its pair (R89). -/
theorem decByte_encPair (b : Byte) (p : PairIndex) : decByte (encPair b p) = some (pairHigh b p, pairLow b p) := by
  have packed : ∀ x y, decByte (pack (sym x) (sym y)) = some (x, y) := by decide
  exact packed _ _

/-- What the checker reads of a code byte are its bits 6 and 2 (R89). -/
theorem decByte_of_isCodeByte {o : Byte} (h : isCodeByte o = true) : decByte o = some (o.getLsbD 6, o.getLsbD 2) := by
  obtain rfl | rfl | rfl | rfl := (isCodeByte_iff_mem o).mp h <;> rfl

/-- The output bytes of a byte are those of its pairs (R83). -/
theorem exists_eq_encPair_of_mem {o b : Byte} (h : o ∈ encByte b) : ∃ p, o = encPair b p := by
  simp only [encByte, List.mem_cons, List.not_mem_nil, or_false] at h
  obtain h | h | h | h := h <;> exact ⟨_, h⟩

/-- The byte of a byte's four pairs is that byte (R90). -/
theorem byteOfPairs_pairs (b : Byte) :
    byteOfPairs (pairHigh b 0, pairLow b 0) (pairHigh b 1, pairLow b 1) (pairHigh b 2, pairLow b 2)
      (pairHigh b 3, pairLow b 3) = b := by
  revert b; decide

/-- Encoding the byte of four pairs gives the code byte of each. -/
theorem encByte_byteOfPairs (d0 d1 d2 d3 : Bool × Bool) :
    encByte (byteOfPairs d0 d1 d2 d3) =
      [pack (sym d0.1) (sym d0.2), pack (sym d1.1) (sym d1.2), pack (sym d2.1) (sym d2.2),
        pack (sym d3.1) (sym d3.2)] := by
  revert d0 d1 d2 d3; decide

/-- The checker's loop reads the four output bytes of a byte as that byte. -/
theorem decBytes_encByte_append (b : Byte) (rest : List Byte) :
    decBytes (encByte b ++ rest) = (decBytes rest).map (b :: ·) := by
  cases h : decBytes rest <;>
    simp only [encByte, List.cons_append, List.nil_append, decBytes, decByte_encPair, h, byteOfPairs_pairs, Option.map]

/-- The checker's loop reads the encoding of a sequence as that sequence. -/
theorem decBytes_flatMap_encByte (bytes : List Byte) : decBytes (bytes.flatMap encByte) = some bytes := by
  induction bytes with
  | nil => rfl
  | cons b bytes ih => rw [List.flatMap_cons, decBytes_encByte_append, ih, Option.map_some]

/-- The checker's loop reads a sequence from nothing but its encoding. -/
theorem flatMap_encByte_of_decBytes {e bytes : List Byte} (h : decBytes e = some bytes) : bytes.flatMap encByte = e := by
  fun_induction decBytes e generalizing bytes with
  | case1 => cases h; rfl
  | case2 e0 e1 e2 e3 rest d0 d1 d2 d3 bytes hrest h3 h2 h1 h0 ih =>
    cases h
    rw [List.flatMap_cons, ih hrest, encByte_byteOfPairs, ← eq_pack_of_decByte h0, ← eq_pack_of_decByte h1,
      ← eq_pack_of_decByte h2, ← eq_pack_of_decByte h3]
    rfl
  | case3 | case4 => cases h

theorem decBytes_eq_some_iff {e bytes : List Byte} : decBytes e = some bytes ↔ bytes.flatMap encByte = e :=
  ⟨flatMap_encByte_of_decBytes, fun h => h ▸ decBytes_flatMap_encByte bytes⟩

/-- Different sequences have different encodings, for the checker tells them apart (R92). -/
theorem flatMap_encByte_injective : Function.Injective fun bytes : List Byte => bytes.flatMap encByte :=
  fun xs _ h => Option.some_inj.mp ((decBytes_flatMap_encByte xs).symm.trans (decBytes_eq_some_iff.mpr h.symm))

/-- What the checker reads an Encoded Buffer as: whole pixels, and those that encode to it (R90). -/
theorem decBuf_eq_some_iff {e pixels : List Byte} :
    decBuf e = some pixels ↔ pixels.length % 3 = 0 ∧ pixels.flatMap encByte = e := by
  rw [decBuf, Option.ite_none_right_eq_some, decBytes_eq_some_iff]
  refine and_congr_left ?_
  rintro rfl
  rw [length_flatMap_encByte, Config.outputsPerPixel]
  omega

end Sys2Proof.Machine
end

section
/-! The statements of 40_symbol_encode.md, settled. -/

namespace Sys2Proof

open Sys2Proof.Machine

/-- Settles O52: the checker reads whole pixels from their encoding only (`decBuf_eq_some_iff`). -/
theorem decBufIsTheExactInverse : Obligations.DecBufIsTheExactInverse := by
  intro e pixels
  rw [decBuf_eq_some_iff, encBuf_eq_some_iff]
  refine and_congr_right fun whole => ?_
  have all : 3 * (pixels.length / 3) = pixels.length := by omega
  rw [all, List.take_length, and_iff_right le_rfl]

/-- Settles O47: a pair is bits 6 and 2 of its output byte, and the checker's loop reads back a sequence. -/
theorem encodingIsInjective : Obligations.EncodingIsInjective := by
  refine ⟨by decide, fun b c p h => ⟨?_, ?_⟩, fun b c h => ?_, fun xs ys n out hx hy => ?_⟩
  · rw [← getLsbD_encPair_six, h, getLsbD_encPair_six]
  · rw [← getLsbD_encPair_two, h, getLsbD_encPair_two]
  · have same : [b].flatMap encByte = [c].flatMap encByte := by rwa [List.flatMap_singleton, List.flatMap_singleton]
    exact List.singleton_inj.mp (flatMap_encByte_injective same)
  · obtain ⟨-, rfl⟩ := encBuf_eq_some_iff.mp hx
    obtain ⟨-, same⟩ := encBuf_eq_some_iff.mp hy
    exact flatMap_encByte_injective same.symm

/-- Settles O49, from where the Encoded Buffer is defined and what it then is (`encBuf_spec`). -/
theorem encodedBufferDomain : Obligations.EncodedBufferDomain := by
  intro pixels n
  refine ⟨?_, ?_, rfl⟩
  · simp [encBuf_spec]
  · simp [encBuf_spec, List.take_take]

/-- Settles O51: what the checker reads encodes to what it was given (`decBuf_eq_some_iff`), so every byte of that is an output
byte. -/
theorem roundTripOfTheEncodedBuffer : Obligations.RoundTripOfTheEncodedBuffer := by
  refine ⟨fun pixels n hlen => ?_, rfl, fun e hlen => if_neg hlen, fun e ⟨o, ho, hnone⟩ => ?_⟩
  · refine ⟨_, encBuf_eq_some_iff.mpr ⟨hlen, rfl⟩, decBuf_eq_some_iff.mpr ⟨?_, rfl⟩⟩
    rw [List.length_take_of_le hlen, Nat.mul_mod_right]
  · by_contra hread
    obtain ⟨pixels, h⟩ := Option.ne_none_iff_exists'.mp hread
    obtain ⟨-, rfl⟩ := decBuf_eq_some_iff.mp h
    obtain ⟨b, -, hb⟩ := List.mem_flatMap.mp ho
    obtain ⟨p, rfl⟩ := exists_eq_encPair_of_mem hb
    rw [decByte_encPair] at hnone
    cases hnone

/-- Settles O45: the closed form is that of two symbols packed (`pack_sym_eq`). -/
theorem encPairClosedForm : Obligations.EncPairClosedForm :=
  fun b p => ⟨rfl, pack_sym_eq _ _, isCodeByte_encPair b p⟩

/-- Settles O46, from the bytes of the word and their bits. -/
theorem encByteWordClosedForm : Obligations.EncByteWordClosedForm :=
  fun b => ⟨rfl, extractLsb'_encWord b, encWord_eq_sum b, fun _ => getLsbD_encWord b⟩

/-- Settles O50: a code byte is read by its bits 6 and 2, and no other byte is read. -/
theorem decByteInvertsPacking : Obligations.DecByteInvertsPacking := by
  refine ⟨fun x => decNibble_eq_some_iff.mpr rfl, fun o => ?_, decByte_encPair⟩
  split_ifs with code
  · exact decByte_of_isCodeByte ((isCodeByte_iff_and o).mpr code)
  · exact decByte_eq_none (Bool.eq_false_iff.mpr (mt (isCodeByte_iff_and o).mp code))

/-- Settles O53, for each of the two symbols; an output byte is sent as the symbols of its pair (`msbFirst_encPair`). -/
theorem pulseShapes : Obligations.PulseShapes :=
  ⟨rfl, rfl, by decide, rfl, rfl, msbFirst_encPair⟩

end Sys2Proof
end

section
/-! SUPPORT. One cycle by the condition that selects it: its operation, its outputs, its handshakes (30_encoding.md R67,
41_stream_operations.md R101, R102). -/

namespace Sys2Proof.Machine

section
variable {s : State}

/-- The row of the operation of a cycle matches its control word. -/
theorem matchesWord_of_operation {i : Instr} (h : s.operation = i) : i.row.matchesWord s.cw = true :=
  (decodeControl_eq_iff.mp h).1

@[simp] theorem cwFull_cw (s : State) : cwFull s.cw = s.full := cwFull_controlWord ..

@[simp] theorem cwP_cw (s : State) : cwP s.cw = s.p := cwP_controlWord ..

theorem operation_of_idle (hr : s.inputs.rst = false) (hf : s.full = false) (hv : s.inputs.inValid = false) :
    s.operation = .idle := by
  simp [operation_eq, hr, hf, hv]

theorem operation_of_load (hr : s.inputs.rst = false) (hf : s.full = false) (hv : s.inputs.inValid = true) :
    s.operation = .load s.inputs.inData := by
  simp [operation_eq, hr, hf, hv]

theorem operation_of_stall (hr : s.inputs.rst = false) (hf : s.full = true) (ho : s.inputs.outReady = false) :
    s.operation = .stall := by
  simp [operation_eq, hr, hf, ho]

/-- A full block with a ready downstream performs the row of its pair index. -/
theorem operation_of_emit (hr : s.inputs.rst = false) (hf : s.full = true) (ho : s.inputs.outReady = true) :
    (s.p = 0 ∧ s.operation = .emitP0) ∨ (s.p = 1 ∧ s.operation = .emitP1) ∨ (s.p = 2 ∧ s.operation = .emitP2) ∨
      (s.p = 3 ∧ s.operation = .emitLast) := by
  obtain hp | hp | hp | hp := pairIndex_cases s.p <;> simp [operation_eq, hr, hf, ho, hp]

theorem operation_of_emitLast (hr : s.inputs.rst = false) (hf : s.full = true) (ho : s.inputs.outReady = true)
    (hp : s.p = 3) : s.operation = .emitLast := by
  simp [operation_eq, hr, hf, ho, hp]

theorem full_of_operation_load {b : Byte} (h : s.operation = .load b) : s.full = false := by
  obtain ⟨-, hf, -⟩ := (matchesWord_load s.cw b).mp (matchesWord_of_operation h)
  rwa [cwFull_cw] at hf

theorem outputs_of_empty (hr : s.inputs.rst = false) (hf : s.full = false) :
    s.outputs.inReady = true ∧ s.outputs.outValid = false := by
  simp [State.outputs, inReady, outValid, hr, hf]

theorem outputs_of_full (hr : s.inputs.rst = false) (hf : s.full = true) :
    s.outputs = ⟨false, true, encPair s.hold s.p⟩ := by
  simp [State.outputs, inReady, outValid, hr, hf]

theorem full_of_outValid (h : s.outputs.outValid = true) : s.full = true :=
  (Bool.and_eq_true_iff.mp h).2

theorem empty_of_inReady (h : s.outputs.inReady = true) : s.full = false :=
  (Bool.not_eq_true' _).mp (Bool.and_eq_true_iff.mp h).2

/-- The input handshake of an empty block is the upstream's to fire. -/
theorem accept_of_empty (hr : s.inputs.rst = false) (hf : s.full = false) : s.accept = s.inputs.inValid := by
  simp [accept_eq, hr, hf]

theorem accept_of_full (hf : s.full = true) : s.accept = false := by
  simp [accept_eq, hf]

theorem emit_of_empty (hf : s.full = false) : s.emit = false := by
  simp [emit_eq, hf]

/-- The output handshake of a full block is the downstream's to fire. -/
theorem emit_of_full (hr : s.inputs.rst = false) (hf : s.full = true) : s.emit = s.inputs.outReady := by
  simp [emit_eq, hr, hf]

/-- At most one handshake fires in a cycle. -/
theorem not_accept_and_emit (s : State) : ¬(s.accept = true ∧ s.emit = true) := by
  rintro ⟨ha, he⟩
  rw [emit_eq_false_of_accept ha] at he
  cases he

/-- `p + 1` does not overflow in an EMIT cycle (R108). -/
theorem toNat_add_one_of_ne_three {p : PairIndex} (hp : p ≠ 3) : (p + 1).toNat = p.toNat + 1 := by
  revert p; decide

/-- A state has one next state (R103). -/
theorem next_unique {t u : State} (h : step s = .next t) (h' : step s = .next u) : u = t := by
  rw [h] at h'
  exact (Host.Outcome.next.inj h').symm

/-- A cycle in which no handshake can fire, STALL or IDLE, changes nothing but the inputs and the cycle number. -/
theorem step_of_quiet (hr : s.inputs.rst = false) (stalled : s.full = true → s.inputs.outReady = false)
    (idle : s.full = false → s.inputs.inValid = false) : step s = .next s.nextCycle := by
  cases hf : s.full with
  | true => exact step_of_stall hr hf (stalled hf)
  | false => exact step_of_idle hr hf (idle hf)

/-- The current inputs act through the operation they select, and no further. -/
theorem step_of_same_operation {i j : CycleInputs} {rest : List CycleInputs} (hs : s.stimulus = i :: rest)
    (same : State.operation { s with stimulus := j :: rest } = s.operation) :
    step { s with stimulus := j :: rest } = step s := by
  have tail : s.stimulus.tail = rest := by rw [hs, List.tail_cons]
  rw [step_eq_effect, step_eq_effect, same, ← tail]
  cases s.operation <;> rfl

end

end Sys2Proof.Machine
end

section
/-! SUPPORT. Properties of every cycle of a run (41_stream_operations.md R111, R115). -/

namespace Sys2Proof.Machine

/-- Each of the first `n` cycles from `s` begins in a state with `P`. -/
def Throughout (n : Nat) (P : State → Prop) (s : State) : Prop :=
  ∀ k u, k < n → runCycles k s = .next u → P u

theorem noResetFor_iff_throughout (n : Nat) (s : State) :
    NoResetFor n s ↔ Throughout n (fun u => u.inputs.rst = false) s := Iff.rfl

/-- What holds throughout a run holds in its first cycle and throughout the rest. -/
theorem Throughout.first_and_rest {P : State → Prop} {n : Nat} {s t : State} (h : Throughout (n + 1) P s)
    (first : step s = .next t) : P s ∧ Throughout n P t :=
  ⟨h 0 s n.succ_pos rfl, fun k u hk hu => h (k + 1) u (Nat.succ_lt_succ hk) ((runCycles_of_step first k).trans hu)⟩

/-- What every cycle that begins with `P` keeps holds at the end of a run with `P` throughout. -/
theorem run_keeps_while {Inv P : State → Prop} (keeps : ∀ s t, Inv s → P s → step s = .next t → Inv t) (n : Nat) :
    ∀ s t, Inv s → Throughout n P s → runCycles n s = .next t → Inv t := by
  induction n with
  | zero =>
    intro s t hs _ h
    injection h with h
    exact h ▸ hs
  | succ n ih =>
    intro s t hs hP h
    obtain ⟨now, later⟩ := hP.first_and_rest (step_eq_effect s)
    rw [runCycles_succ] at h
    exact ih _ t (keeps s _ hs now (step_eq_effect s)) later h

/-- The block holds the byte `b`, next to deliver pair `p`. -/
def State.Holds (b : Byte) (p : PairIndex) (s : State) : Prop := s.full = true ∧ s.hold = b ∧ s.p = p

/-- A block whose byte is not taken keeps it: the cycle is STALL. -/
theorem step_keeps_holds {b : Byte} {p : PairIndex} {s t : State} (hs : s.Holds b p)
    (quiet : s.inputs.rst = false ∧ s.emit = false) (h : step s = .next t) : t.Holds b p := by
  obtain ⟨hf, -⟩ := id hs
  obtain ⟨hr, he⟩ := quiet
  rw [emit_of_full hr hf] at he
  exact next_unique (step_of_stall hr hf he) h ▸ hs

/-- An empty block that takes no byte stays empty: the cycle is IDLE. -/
theorem step_keeps_empty {s t : State} (hf : s.full = false) (quiet : s.inputs.rst = false ∧ s.accept = false)
    (h : step s = .next t) : t.full = false := by
  obtain ⟨hr, ha⟩ := quiet
  rw [accept_of_empty hr hf] at ha
  exact next_unique (step_of_idle hr hf ha) h ▸ hf

/-- Quiet cycles over listed inputs, any number of them. -/
theorem runCycles_quiet (rest : List CycleInputs) (quiet : List CycleInputs) :
    ∀ s : State, s.stimulus = quiet ++ rest →
      (∀ i ∈ quiet, i.rst = false ∧ (s.full = true → i.outReady = false) ∧ (s.full = false → i.inValid = false)) →
      runCycles quiet.length s = .next { s with stimulus := rest, cycle := s.cycle + quiet.length } := by
  induction quiet with
  | nil =>
    rintro ⟨hold, p, full, stimulus, cycle, es⟩ hs _
    obtain rfl : stimulus = rest := hs
    rfl
  | cons i quiet ih =>
    intro s hs hq
    obtain ⟨now, later⟩ := List.forall_mem_cons.mp hq
    rw [← inputs_of_stimulus s hs] at now
    obtain ⟨hr, stalled, idle⟩ := now
    have next : s.nextCycle.stimulus = quiet ++ rest := congrArg List.tail hs
    rw [List.length_cons, runCycles_of_step (step_of_quiet hr stalled idle), ih s.nextCycle next later, nextCycle_cycle,
      Nat.add_right_comm]
    rfl

end Sys2Proof.Machine
end

section
/-! SUPPORT. The record since the last RESET (log entry 3): that of whole input bytes, then of the byte held as far as `p` says
(41_stream_operations.md R112, R113). -/

namespace Sys2Proof.Machine

theorem partialEvents_of_empty {s : State} (hf : s.full = false) : s.partialEvents = [] := by
  simp [State.partialEvents, hf]

theorem partialEvents_of_full {s : State} (hf : s.full = true) :
    s.partialEvents = .accept s.hold :: ((encByte s.hold).take s.p.toNat).map .emit := by
  simp [State.partialEvents, hf]

/-- After the output bytes before pair `p` comes that of pair `p` (20_memory.md R45). -/
theorem take_encByte_succ (b : Byte) (p : PairIndex) :
    (encByte b).take (p.toNat + 1) = (encByte b).take p.toNat ++ [encPair b p] := by
  rw [List.take_add_one, encByte_getElem?, Option.toList_some]

/-- An EMIT adds its byte to the handshakes of the byte held. -/
theorem partialEvents_advancePair {s : State} (hf : s.full = true) (hp : s.p ≠ 3) :
    s.deliverByte.advancePair.partialEvents = s.partialEvents ++ [.emit (encPair s.hold s.p)] := by
  have next : s.deliverByte.advancePair.partialEvents =
      .accept s.hold :: ((encByte s.hold).take (s.p + 1).toNat).map .emit := partialEvents_of_full hf
  rw [next, toNat_add_one_of_ne_three hp, take_encByte_succ, List.map_append, partialEvents_of_full hf]
  rfl

/-- EMIT_LAST completes the handshakes of the byte held. -/
theorem partialEvents_append_last {s : State} (hf : s.full = true) (hp : s.p = 3) :
    s.partialEvents ++ [.emit (encPair s.hold s.p)] = byteEvents s.hold := by
  rw [partialEvents_of_full hf, hp]
  rfl

theorem recordSound_after_rst {s t : State} (hr : s.inputs.rst = true) (h : step s = .next t) : t.RecordSound := by
  exact next_unique (step_of_rst hr) h ▸ ⟨[], rfl⟩

/-- LOAD begins the handshakes of a byte, EMIT adds to them, EMIT_LAST completes them, RESET forgets all; IDLE and STALL move
nothing. -/
theorem step_keeps_recordSound {s t : State} (hs : s.RecordSound) (h : step s = .next t) : t.RecordSound := by
  obtain ⟨hr, -⟩ | ⟨-, -, -, rfl⟩ | ⟨-, hf, -, rfl⟩ | ⟨-, -, -, rfl⟩ | ⟨-, hf, -, hp, rfl⟩ | ⟨-, hf, -, hp, rfl⟩ :=
    step_cases h
  case _ => -- RESET
    exact recordSound_after_rst hr h
  case _ => -- IDLE
    exact hs
  case _ => -- LOAD
    obtain ⟨done, hdone⟩ := hs
    rw [partialEvents_of_empty hf, List.append_nil] at hdone
    exact ⟨done, congrArg (· ++ [Event.accept s.inputs.inData]) hdone⟩
  case _ => -- STALL
    exact hs
  case _ => -- EMIT
    obtain ⟨done, hdone⟩ := hs
    refine ⟨done, ?_⟩
    calc
      sinceReset s.events ++ [.emit (encPair s.hold s.p)]
        = done.flatMap byteEvents ++ (s.partialEvents ++ [.emit (encPair s.hold s.p)]) := by
          rw [hdone, List.append_assoc]
      _ = done.flatMap byteEvents ++ s.deliverByte.advancePair.partialEvents := by
          rw [partialEvents_advancePair hf hp]
  case _ => -- EMIT_LAST
    obtain ⟨done, hdone⟩ := hs
    refine ⟨done ++ [s.hold], ?_⟩
    calc
      sinceReset s.events ++ [.emit (encPair s.hold s.p)]
        = done.flatMap byteEvents ++ (s.partialEvents ++ [.emit (encPair s.hold s.p)]) := by
          rw [hdone, List.append_assoc]
      _ = (done ++ [s.hold]).flatMap byteEvents ++ [] := by
          rw [partialEvents_append_last hf hp, List.flatMap_append, List.flatMap_singleton, List.append_nil]

theorem filterMap_acceptedByte_map_emit (bytes : List Byte) :
    (bytes.map Event.emit).filterMap Event.acceptedByte = [] := by
  simp [List.filterMap_map]

theorem filterMap_emittedByte_map_emit (bytes : List Byte) :
    (bytes.map Event.emit).filterMap Event.emittedByte = bytes := by
  rw [List.filterMap_map]
  exact List.filterMap_some

/-- The handshakes of whole bytes and of the byte held: what was accepted, and what was emitted. -/
theorem accepted_and_emitted_of_full {s : State} {done : List Byte} (hf : s.full = true)
    (h : sinceReset s.events = done.flatMap byteEvents ++ s.partialEvents) :
    s.accepted = done ++ [s.hold] ∧ s.emitted = done.flatMap encByte ++ (encByte s.hold).take s.p.toNat := by
  rw [partialEvents_of_full hf] at h
  constructor
  · rw [State.accepted, h, List.filterMap_append, accepted_flatMap_byteEvents,
      List.filterMap_cons_some (acceptedByte_accept _), filterMap_acceptedByte_map_emit]
  · rw [State.emitted, h, List.filterMap_append, emitted_flatMap_byteEvents,
      List.filterMap_cons_none (emittedByte_accept _), filterMap_emittedByte_map_emit]

section
variable {s : State} (sound : s.RecordSound)
include sound

/-- Once the block is empty, all of the encoding of what was accepted has been emitted (R113). -/
theorem State.RecordSound.emitted_of_empty (hf : s.full = false) : s.emitted = s.accepted.flatMap encByte := by
  obtain ⟨done, h⟩ := sound
  rw [partialEvents_of_empty hf, List.append_nil] at h
  rw [State.emitted, State.accepted, h, emitted_flatMap_byteEvents, accepted_flatMap_byteEvents]

/-- What was emitted begins the encoding of what was accepted (R113). -/
theorem State.RecordSound.emitted_prefix : s.emitted <+: s.accepted.flatMap encByte := by
  cases hf : s.full with
  | false => rw [sound.emitted_of_empty hf]
  | true =>
    obtain ⟨done, h⟩ := sound
    obtain ⟨haccepted, hemitted⟩ := accepted_and_emitted_of_full hf h
    rw [haccepted, hemitted, List.flatMap_append, List.flatMap_singleton]
    exact (List.prefix_append_right_inj _).mpr (List.take_prefix ..)

/-- All but the last byte accepted have been emitted whole (R113). -/
theorem State.RecordSound.length_emitted_ge : 4 * (s.accepted.length - 1) ≤ s.emitted.length := by
  cases hf : s.full with
  | false =>
    rw [sound.emitted_of_empty hf, length_flatMap_encByte]
    omega
  | true =>
    obtain ⟨done, h⟩ := sound
    obtain ⟨haccepted, hemitted⟩ := accepted_and_emitted_of_full hf h
    rw [haccepted, hemitted, List.length_append, List.length_append, length_flatMap_encByte, List.length_singleton,
      Nat.add_sub_cancel]
    exact Nat.le_add_right ..

end

/-- What begins an encoding has at index `j` the output byte of pair `j mod 4` of byte `j / 4` (R113). -/
theorem getElem?_of_prefix_flatMap_encByte {emitted bytes : List Byte} (h : emitted <+: bytes.flatMap encByte) {j : Nat}
    {e : Byte} (he : emitted[j]? = some e) :
    ∃ a, bytes[j / 4]? = some a ∧ e = encPair a (BitVec.ofNat 2 (j % 4)) := by
  have index : 4 * (j / 4) + (BitVec.ofNat 2 (j % 4)).toNat = j := by
    rw [BitVec.toNat_ofNat]; omega
  have there : (bytes.flatMap encByte)[j]? = some e := by
    obtain ⟨hj, rfl⟩ := List.getElem?_eq_some_iff.mp he
    exact List.prefix_iff_getElem?.mp h j hj
  rw [← index, flatMap_encByte_getElem?, Option.map_eq_some_iff] at there
  obtain ⟨a, ha, rfl⟩ := there
  exact ⟨a, ha, rfl⟩

end Sys2Proof.Machine
end

section
/-! SUPPORT. How many cycles a byte takes (41_stream_operations.md R115). -/

namespace Sys2Proof.Machine

/-- The emits that the byte held still needs. -/
def State.pairsLeft (s : State) : Nat := if s.full then 4 - s.p.toNat else 0

theorem pairsLeft_of_empty {s : State} (hf : s.full = false) : s.pairsLeft = 0 := by
  simp [State.pairsLeft, hf]

theorem pairsLeft_of_full {s : State} (hf : s.full = true) : s.pairsLeft = 4 - s.p.toNat := by
  simp [State.pairsLeft, hf]

@[simp] theorem pairsLeft_nextCycle (s : State) : s.nextCycle.pairsLeft = s.pairsLeft := rfl

theorem pairsLeft_le_four (s : State) : s.pairsLeft ≤ 4 := by
  unfold State.pairsLeft
  split_ifs <;> omega

/-- A cycle does one fifth of the work on a byte or none: LOAD takes a byte and owes its four emits, each emit pays one. -/
theorem step_pairsLeft {s t : State} (hr : s.inputs.rst = false) (h : step s = .next t) :
    ∃ es : List Event, t.events = es ++ s.events ∧
      5 * (es.filterMap Event.acceptedByte).length + s.pairsLeft ≤ 1 + t.pairsLeft := by
  obtain ⟨hrst, -⟩ | ⟨-, -, -, rfl⟩ | ⟨-, hf, -, rfl⟩ | ⟨-, -, -, rfl⟩ | ⟨-, hf, -, hp, rfl⟩ | ⟨-, hf, -, hp, rfl⟩ :=
    step_cases h
  case _ => -- RESET
    simp [hr] at hrst
  case _ => -- IDLE
    exact ⟨[], rfl, by simp⟩
  case _ => -- LOAD
    exact ⟨[.accept s.inputs.inData], rfl, by simp [State.pairsLeft, hf]⟩
  case _ => -- STALL
    exact ⟨[], rfl, by simp⟩
  case _ => -- EMIT
    have owed : s.deliverByte.advancePair.nextCycle.pairsLeft = 4 - (s.p + 1).toNat := pairsLeft_of_full hf
    refine ⟨[.emit (encPair s.hold s.p)], rfl, ?_⟩
    rw [List.filterMap_cons_none (acceptedByte_emit _), owed, pairsLeft_of_full hf, toNat_add_one_of_ne_three hp,
      List.filterMap_nil, List.length_nil]
    omega
  case _ => -- EMIT_LAST
    exact ⟨[.emit (encPair s.hold s.p)], rfl, by simp [State.pairsLeft, hf, hp]⟩

/-- A run without RESET has done at most one fifth of a byte's work in each cycle. -/
theorem run_pairsLeft (n : Nat) :
    ∀ s t, NoResetFor n s → runCycles n s = .next t →
      ∃ es : List Event, t.events = es ++ s.events ∧
        5 * (es.filterMap Event.acceptedByte).length + s.pairsLeft ≤ n + t.pairsLeft := by
  induction n with
  | zero =>
    intro s t _ h
    injection h with h
    exact ⟨[], by rw [h, List.nil_append], by simp [h]⟩
  | succ n ih =>
    intro s t hn h
    have first := step_eq_effect s
    obtain ⟨now, later⟩ := ((noResetFor_iff_throughout _ s).mp hn).first_and_rest first
    rw [runCycles_succ] at h
    obtain ⟨es, hes, hle⟩ := ih _ t later h
    obtain ⟨es₀, hes₀, hle₀⟩ := step_pairsLeft now first
    refine ⟨es ++ es₀, by rw [hes, hes₀, List.append_assoc], ?_⟩
    rw [List.filterMap_append, List.length_append]
    omega

/-- With a byte always offered and the downstream always ready, a byte passes every five cycles. -/
theorem runCycles_continuous (rest : List CycleInputs) (m : Nat) :
    ∀ (s : State) (inputs : List CycleInputs), s.full = false → s.stimulus = inputs ++ rest → inputs.length = 5 * m →
      (∀ i ∈ inputs, i.rst = false ∧ i.inValid = true ∧ i.outReady = true) →
      ∃ (t : State) (bytes : List Byte), runCycles (5 * m) s = .next t ∧ t.full = false ∧ bytes.length = m ∧
        t.events = (bytes.flatMap byteEvents).reverse ++ s.events := by
  induction m with
  | zero => exact fun s _ hf _ _ _ => ⟨s, [], rfl, hf, rfl, rfl⟩
  | succ m ih =>
    intro s inputs hf hs hlen hin
    match inputs, hlen with
    | i0 :: i1 :: i2 :: i3 :: i4 :: inputs, hlen =>
      simp only [List.forall_mem_cons] at hin
      obtain ⟨⟨hr0, hv0, -⟩, ⟨hr1, -, ho1⟩, ⟨hr2, -, ho2⟩, ⟨hr3, -, ho3⟩, ⟨hr4, -, ho4⟩, later⟩ := hin
      have one := runCycles_one_byte (rest := inputs ++ rest) hf hs hr0 hv0 (by simp [hr1, ho1, hr2, ho2, hr3, ho3, hr4, ho4])
      obtain ⟨t, bytes, hrun, ht, hbytes, hevents⟩ := ih ⟨i0.inData, 0, false, inputs ++ rest, s.cycle + 5,
        (byteEvents i0.inData).reverse ++ s.events⟩ inputs rfl rfl (by simp only [List.length_cons] at hlen; omega) later
      refine ⟨t, i0.inData :: bytes, ?_, ht, by rw [List.length_cons, hbytes], ?_⟩
      · rw [Nat.mul_succ, Nat.add_comm, runCycles_add _ one, hrun]
      · rw [hevents, List.flatMap_cons, List.reverse_append, List.append_assoc]

end Sys2Proof.Machine
end

section
/-! SUPPORT. Two blocks that differ only in what an empty block holds, and in what they did before, do the same on the same inputs
(41_stream_operations.md R117). -/

namespace Sys2Proof.Machine

/-- The same inputs to come, and the same byte held as far as the block is full. -/
structure State.AgreesWith (s s' : State) : Prop where
  stimulus : s.stimulus = s'.stimulus
  cycle : s.cycle = s'.cycle
  full : s.full = s'.full
  held : s.full = true → s.hold = s'.hold ∧ s.p = s'.p

section
variable {s s' : State} (h : s.AgreesWith s')
include h

theorem State.AgreesWith.inputs : s.inputs = s'.inputs := by
  rw [State.inputs, State.inputs, h.stimulus, h.cycle]

theorem State.AgreesWith.operation : s.operation = s'.operation := by
  rw [operation_eq, operation_eq, ← h.inputs, ← h.full]
  cases hf : s.full with
  | false => rfl
  | true =>
    obtain ⟨-, hp⟩ := h.held hf
    rw [hp]

theorem State.AgreesWith.portEvents : s.portEvents = s'.portEvents := by
  have accept : s.accept = s'.accept := by rw [accept_eq, accept_eq, h.inputs, h.full]
  have emit : s.emit = s'.emit := by rw [emit_eq, emit_eq, h.inputs, h.full]
  have outData : s.emit = true → s.outputs.outData = s'.outputs.outData := fun he => by
    obtain ⟨valid, -⟩ := Bool.and_eq_true_iff.mp he
    obtain ⟨hhold, hp⟩ := h.held (full_of_outValid valid)
    exact congrArg₂ encPair hhold hp
  unfold State.portEvents
  rw [← h.inputs, ← accept, ← emit]
  split_ifs with _ _ he
  · rfl
  · rfl
  · rw [outData he]
  · rfl

/-- Each operation keeps the agreement: it reads `hold` and `p` of a full block only, or writes the same to both. -/
theorem State.AgreesWith.effect (i : Instr) : (effect s i).AgreesWith (effect s' i) := by
  obtain ⟨hstimulus, hcycle, hfull, held⟩ := id h
  cases i with
  | reset | load => exact ⟨hstimulus, hcycle, rfl, fun _ => ⟨rfl, rfl⟩⟩
  | idle | stall => exact h
  | emitP0 | emitP1 | emitP2 =>
    exact ⟨hstimulus, hcycle, hfull, fun hf => (held hf).imp_right (congrArg (· + 1))⟩
  | emitLast => exact ⟨hstimulus, hcycle, rfl, nofun⟩

theorem State.AgreesWith.nextCycle : s.nextCycle.AgreesWith s'.nextCycle :=
  ⟨congrArg List.tail h.stimulus, congrArg (· + 1) h.cycle, h.full, h.held⟩

end

/-- Blocks that agree move the same bytes in any run and agree at its end. -/
theorem State.AgreesWith.runCycles (n : Nat) :
    ∀ {s s' t : State}, s.AgreesWith s' → runCycles n s = .next t →
      ∃ (t' : State) (es : List Event), Machine.runCycles n s' = .next t' ∧ t.events = es ++ s.events ∧
        t'.events = es ++ s'.events ∧ t.AgreesWith t' := by
  induction n with
  | zero =>
    intro s s' t hs h
    injection h with h
    exact ⟨s', [], rfl, h ▸ rfl, rfl, h ▸ hs⟩
  | succ n ih =>
    intro s s' t hs h
    rw [runCycles_succ] at h
    obtain ⟨t', es, hrun, hes, hes', agree⟩ := ih (hs.effect s.operation).nextCycle h
    have first := step_eq_effect s
    have first' := step_eq_effect s'
    rw [← hs.operation] at first'
    refine ⟨t', es ++ s.portEvents, (runCycles_of_step first' n).trans hrun, ?_, ?_, agree⟩
    · rw [hes, step_events first, List.append_assoc]
    · rw [hes', step_events first', hs.portEvents, List.append_assoc]

end Sys2Proof.Machine
end

section
/-! The statements of 41_stream_operations.md, settled. -/

namespace Sys2Proof

open Sys2Proof.Machine

/-- Settles O35, by the case of the step. -/
theorem recordSoundIsKept : Obligations.RecordSoundIsKept :=
  fun _ _ => step_keeps_recordSound

/-- Settles O8: the row of the decoded operation matches the control word, which fixes LOAD's operand and the `p` of each EMIT. -/
theorem stepPerformsTheCaseOfTheControlWord : Obligations.StepPerformsTheCaseOfTheControlWord := by
  intro s
  refine ⟨rfl, rfl, rfl, fun _ => rfl, _, step_eq_effect s, ?_⟩
  cases hop : s.operation with
  | reset | idle | stall => exact ⟨rfl, rfl, rfl⟩
  | load b =>
    obtain rfl : s.inputs.inData = b := operand_of_decodeControl hop
    exact ⟨rfl, rfl, rfl, rfl⟩
  | emitP0 =>
    obtain ⟨-, -, -, hp⟩ := (matchesWord_emitP0 s.cw).mp (matchesWord_of_operation hop)
    exact ⟨(cwP_cw s).symm.trans hp, rfl, rfl, rfl⟩
  | emitP1 =>
    obtain ⟨-, -, -, hp⟩ := (matchesWord_emitP1 s.cw).mp (matchesWord_of_operation hop)
    exact ⟨(cwP_cw s).symm.trans hp, rfl, rfl, rfl⟩
  | emitP2 =>
    obtain ⟨-, -, -, hp⟩ := (matchesWord_emitP2 s.cw).mp (matchesWord_of_operation hop)
    exact ⟨(cwP_cw s).symm.trans hp, rfl, rfl, rfl⟩
  | emitLast =>
    obtain ⟨-, -, -, hp⟩ := (matchesWord_emitLast s.cw).mp (matchesWord_of_operation hop)
    exact ⟨(cwP_cw s).symm.trans hp, rfl, rfl, rfl⟩

/-- Settles O13, from the rules of an IDLE cycle. -/
theorem idleCycle : Obligations.IdleCycle := by
  intro s hr hf hv
  obtain ⟨ready, invalid⟩ := outputs_of_empty hr hf
  exact ⟨operation_of_idle hr hf hv, ready, invalid, (accept_of_empty hr hf).trans hv, emit_of_empty hf,
    step_of_idle hr hf hv, fun inv => inv hf⟩

/-- Settles O14: after LOAD the block is full. -/
theorem loadCycle : Obligations.LoadCycle := by
  intro s hr hf hv
  obtain ⟨ready, invalid⟩ := outputs_of_empty hr hf
  refine ⟨operation_of_load hr hf hv, ready, invalid, (accept_of_empty hr hf).trans hv, emit_of_empty hf,
    step_of_load hr hf hv, fun t h hrt => ?_⟩
  obtain rfl := next_unique (step_of_load hr hf hv) h
  exact outputs_of_full hrt rfl

/-- Settles O15: after STALL the block is full with the same `hold` and `p`. -/
theorem stallCycle : Obligations.StallCycle := by
  intro s hr hf ho
  refine ⟨operation_of_stall hr hf ho, outputs_of_full hr hf, accept_of_full hf, (emit_of_full hr hf).trans ho,
    step_of_stall hr hf ho, fun t h hrt => ?_⟩
  obtain rfl := next_unique (step_of_stall hr hf ho) h
  rw [outputs_of_full hrt hf, outputs_of_full hr hf]
  exact ⟨rfl, rfl⟩

/-- Settles O16: the row is that of `p`, and `p + 1` is at most 3. -/
theorem emitCycle : Obligations.EmitCycle := by
  intro s hr hf ho hp
  refine ⟨?_, outputs_of_full hr hf, accept_of_full hf, (emit_of_full hr hf).trans ho, toNat_add_one_of_ne_three hp,
    step_of_emit hr hf ho hp⟩
  obtain row | row | row | ⟨last, -⟩ := operation_of_emit hr hf ho
  · exact .inl row
  · exact .inr (.inl row)
  · exact .inr (.inr row)
  · exact absurd last hp

/-- Settles O17: after EMIT_LAST the block is empty. -/
theorem emitLastCycle : Obligations.EmitLastCycle := by
  intro s hr hf ho hp
  have outputs := outputs_of_full hr hf
  have next := step_of_emitLast hr hf ho hp
  refine ⟨operation_of_emitLast hr hf ho hp, hp ▸ outputs, accept_of_full hf, (emit_of_full hr hf).trans ho, ?_,
    fun t h hrt => ?_⟩
  · rw [next, ← hp]
    rfl
  · obtain rfl := next_unique next h
    exact outputs_of_empty hrt rfl

/-- Settles O18, by induction on the quiet inputs. -/
theorem quietCyclesChangeNothing : Obligations.QuietCyclesChangeNothing :=
  fun s quiet rest => runCycles_quiet rest quiet s

/-- Settles O28: inputs that agree where they are read select the same operation. -/
theorem ignoredInputsHaveNoEffect : Obligations.IgnoredInputsHaveNoEffect := by
  intro s i j rest hs hrst hempty hfull
  refine step_of_same_operation hs ?_
  rw [operation_eq, operation_eq, inputs_of_stimulus s hs, inputs_mk_cons, ← hrst]
  cases hr : i.rst with
  | true => rfl
  | false =>
    cases hf : s.full with
    | true =>
      rw [hfull hr hf]
      rfl
    | false =>
      obtain ⟨hvalid, hdata⟩ := hempty hr hf
      rw [← hvalid]
      cases hv : i.inValid with
      | true =>
        rw [hdata hv]
        rfl
      | false => rfl

/-- Settles O26: a handshake needs the state of the block that the other excludes; an offer not accepted is not read (O28). -/
theorem handshakesExcludeEachOther : Obligations.HandshakesExcludeEachOther := by
  intro s
  refine ⟨accept_eq s, emit_eq s, not_accept_and_emit s, no_handshake_of_rst, fun i rest d hs ha => ?_⟩
  refine ignoredInputsHaveNoEffect s i _ rest hs rfl (fun hr hf => ?_) fun _ _ => rfl
  rw [← inputs_of_stimulus s hs] at hr ⊢
  rw [accept_of_empty hr hf] at ha
  exact ⟨ha, fun hv => absurd (ha.symm.trans hv) Bool.false_ne_true⟩

/-- Settles O27, by the case of the step (`step_events`). -/
theorem recordFollowsTheHandshakes : Obligations.RecordFollowsTheHandshakes :=
  fun _ _ => step_events

/-- Settles O29: until the handshake fires, every cycle of a full block is STALL and every cycle of an empty one IDLE. -/
theorem outputsAreStableUntilTaken : Obligations.OutputsAreStableUntilTaken := by
  intro n s t h hn hrt
  refine ⟨fun hvalid quiet => ?_, fun hready quiet => ?_⟩
  · have hf := full_of_outValid hvalid
    obtain ⟨hft, hhold, hp⟩ := run_keeps_while (fun _ _ => step_keeps_holds (b := s.hold) (p := s.p)) n s t ⟨hf, rfl, rfl⟩
      (fun k u hk hu => ⟨hn k u hk hu, quiet k u hk hu⟩) h
    exact ⟨by rw [outputs_of_full hrt hft], congrArg₂ encPair hhold hp⟩
  · have hft := run_keeps_while (fun _ _ => step_keeps_empty) n s t (empty_of_inReady hready)
      (fun k u hk hu => ⟨hn k u hk hu, quiet k u hk hu⟩) h
    exact (outputs_of_empty hrt hft).1

/-- Settles O36, from the soundness of the record, the row of LOAD and the case of the step. -/
theorem fourOutputsPerInput : Obligations.FourOutputsPerInput := by
  refine ⟨fun n s t hr h => ?_, fun s b => full_of_operation_load, fun s t h hfull hempty => ?_⟩
  · exact holds_after_reset (fun _ _ => recordSound_after_rst) (fun _ _ => step_keeps_recordSound) n hr h
  · obtain rfl := next_unique (step_eq_effect s) h
    cases hop : s.operation with
    | reset => exact .inr rfl
    | emitLast => exact .inl rfl
    | idle | load | stall | emitP0 | emitP1 | emitP2 => simp [hop, effect, hfull] at hempty

/-- Settles O37: a sound record gives the accepted and the emitted bytes, of which R113's clauses are facts about lists. -/
theorem streamCorrectness : Obligations.StreamCorrectness := by
  intro n s t hr h
  have sound : t.RecordSound :=
    holds_after_reset (fun _ _ => recordSound_after_rst) (fun _ _ => step_keeps_recordSound) n hr h
  have isPrefix := sound.emitted_prefix
  refine ⟨fun j e => getElem?_of_prefix_flatMap_encByte isPrefix, isPrefix, sound.length_emitted_ge, fun hf => ?_⟩
  have whole := sound.emitted_of_empty hf
  refine ⟨whole, by rw [whole, length_flatMap_encByte], fun pixels k hk haccepted => ?_⟩
  have frame : encBuf pixels k = some t.emitted := encBuf_eq_some_iff.mpr ⟨hk, by rw [whole, haccepted]⟩
  exact ⟨frame, encBuf_length frame⟩

/-- Settles O38, from the LOAD cycle and the five cycles of one byte (`runCycles_one_byte`). -/
theorem latencyOfOneByte : Obligations.LatencyOfOneByte := by
  intro s i0 i1 i2 i3 i4 rest hf hs hr0 hv0 ready
  refine ⟨?_, runCycles_one_byte hf hs hr0 hv0 ready⟩
  obtain ⟨hr1, -⟩ := ready i1 List.mem_cons_self
  obtain ⟨hold, p, full, stimulus, cycle, es⟩ := s
  obtain rfl : full = false := hf
  obtain rfl : stimulus = _ := hs
  exact ⟨_, step_mk_load _ _ _ _ _ hr0 hv0, outputs_of_full hr1 rfl⟩

/-- Settles O39: each cycle does at most one fifth of the work on a byte (`run_pairsLeft`), and under continuous use exactly that. -/
theorem throughputOfTheBlock : Obligations.ThroughputOfTheBlock := by
  refine ⟨not_accept_and_emit, fun n s t hf hn h => ?_, fun m s inputs rest hf hs hlen hin => ?_⟩
  · obtain ⟨es, hes, hle⟩ := run_pairsLeft n s t hn h
    have owed := pairsLeft_le_four t
    have bound : t.full = false → 5 * (es.filterMap Event.acceptedByte).length ≤ n := fun hft => by
      rw [pairsLeft_of_empty hft] at hle
      omega
    exact ⟨es, hes, by omega, bound, fun k hft hk => by have := bound hft; omega⟩
  · obtain ⟨t, bytes, hrun, hft, hbytes, hes⟩ := runCycles_continuous rest m s inputs hf hs hlen hin
    refine ⟨t, _, hrun, hft, hes, ?_, ?_⟩
    · rw [List.filterMap_reverse, List.length_reverse, accepted_flatMap_byteEvents, hbytes]
    · rw [List.filterMap_reverse, List.length_reverse, emitted_flatMap_byteEvents, length_flatMap_encByte, hbytes]

/-- Settles O40: empty blocks with the same inputs agree, whatever they hold. -/
theorem framesAreIndependent : Obligations.FramesAreIndependent := by
  intro n s s' t hf hf' hstimulus hcycle h
  have agree : s.AgreesWith s' :=
    ⟨hstimulus, hcycle, hf.trans hf'.symm, fun hfull => absurd (hf.symm.trans hfull) Bool.false_ne_true⟩
  obtain ⟨t', es, hrun, hes, hes', ⟨-, -, hfull, held⟩⟩ := agree.runCycles n h
  exact ⟨t', es, hrun, hes, hes', hfull, held⟩

/-- Settles O1: the effect is that of R104. -/
theorem execResetEmptiesTheBlock : Obligations.ExecResetEmptiesTheBlock := fun s => exec_eq_effect .reset s

/-- Settles O2: the effects are those of R105 and R107. -/
theorem execIdleAndStallChangeNothing : Obligations.ExecIdleAndStallChangeNothing :=
  fun s => ⟨exec_eq_effect .idle s, exec_eq_effect .stall s⟩

/-- Settles O3: the effect is that of R106. -/
theorem execLoadTakesTheByte : Obligations.ExecLoadTakesTheByte := fun b s => exec_eq_effect (.load b) s

/-- Settles O4: the three rows have the one effect of R108. -/
theorem execEmitDeliversAndAdvances : Obligations.ExecEmitDeliversAndAdvances :=
  fun s => ⟨exec_eq_effect .emitP0 s, exec_eq_effect .emitP1 s, exec_eq_effect .emitP2 s⟩

/-- Settles O5: the effect is that of R109. -/
theorem execEmitLastDeliversAndEmpties : Obligations.ExecEmitLastDeliversAndEmpties :=
  fun s => exec_eq_effect .emitLast s

/-- Settles O6: the byte form decodes to the operation of the cycle (`decode_setWidth`). -/
theorem stepRunsTheDecodedOperation : Obligations.StepRunsTheDecodedOperation := by
  intro s t i hdecode hexec
  rw [decode_setWidth, Except.ok.injEq, Prod.mk.injEq] at hdecode
  obtain ⟨rfl, -⟩ := hdecode
  rw [exec_eq_effect] at hexec
  injection hexec with hexec
  exact hexec ▸ step_eq_effect s

/-- Settles O25: the output equations read nothing else. -/
theorem outputsDependOnStateAndResetOnly : Obligations.OutputsDependOnStateAndResetOnly :=
  fun _ _ hhold hp hfull hrst =>
    ⟨congrArg₂ inReady hrst hfull, congrArg₂ outValid hrst hfull, fun _ => congrArg₂ encPair hhold hp⟩

/-- Settles O34: after RESET nothing has passed the ports and the block is empty. -/
theorem recordSoundAtReset : Obligations.RecordSoundAtReset :=
  ⟨⟨[], rfl⟩, fun _ _ => recordSound_after_rst⟩

end Sys2Proof
end

section
/-! The statements of 60_exceptions.md, settled. -/

namespace Sys2Proof

open Sys2Proof.Machine

/-- `rst` overrides the state of the block and every other input (R133). -/
theorem Machine.operation_of_rst {s : State} (hr : s.inputs.rst = true) : s.operation = .reset := by
  simp [operation_eq, hr]

/-- Settles O22: each condition of R133 selects the operation of its cycle, and the two handshakes need opposite values of
`full`. -/
theorem priorityOfSimultaneousConditions : Obligations.PriorityOfSimultaneousConditions := by
  intro s
  refine ⟨fun hr => ⟨operation_of_rst hr, no_handshake_of_rst hr⟩, fun hr hf => ?_, operation_of_stall,
    fun hr hf ho => ?_, not_accept_and_emit s⟩
  · cases hv : s.inputs.inValid with
    | true => exact operation_of_load hr hf hv
    | false => exact operation_of_idle hr hf hv
  · exact (operation_of_emit hr hf ho).imp And.right (.imp And.right (.imp And.right And.right))

end Sys2Proof
end

section
/-! SUPPORT. A cycle with `rst = 1` and the first cycle after it (70_reset_and_hazards.md R151, R152). -/

namespace Sys2Proof.Machine

variable {s : State}

/-- While `rst = 1` the block neither takes nor offers a byte, whatever it holds (R101). -/
theorem outputs_of_rst (hr : s.inputs.rst = true) : s.outputs.inReady = false ∧ s.outputs.outValid = false := by
  simp [State.outputs, inReady, outValid, hr]

/-- An empty block performs IDLE or LOAD: which of the two is the upstream's to say. -/
theorem operation_of_empty (hr : s.inputs.rst = false) (hf : s.full = false) :
    s.operation = .idle ∨ s.operation = .load s.inputs.inData := by
  cases hv : s.inputs.inValid with
  | false => exact .inl (operation_of_idle hr hf hv)
  | true => exact .inr (operation_of_load hr hf hv)

end Sys2Proof.Machine
end

section
/-! SUPPORT. The line and the bus: zero bytes, the other bit order, the preamble, the rates (70_reset_and_hazards.md R154, R155, R158,
R159, R164). -/

namespace Sys2Proof.Machine

/-- Bits 7 and 3 of a code byte are set: they are the leading bits of its two symbols (R62, R64). -/
theorem bits_of_isCodeByte {o : Byte} (h : isCodeByte o = true) : o.getLsbD 7 = true ∧ o.getLsbD 3 = true := by
  obtain rfl | rfl | rfl | rfl := (isCodeByte_iff_mem o).mp h <;> exact ⟨rfl, rfl⟩

theorem encByte_zero : encByte 0x00 = List.replicate 4 0x88 := by decide

/-- Zero bytes encode to four times as many bytes `0x88` (R164). -/
theorem flatMap_encByte_replicate_zero (n : Nat) :
    (List.replicate n (0x00 : Byte)).flatMap encByte = List.replicate (4 * n) 0x88 := by
  rw [List.flatMap_replicate, encByte_zero, List.flatten_replicate_replicate, Nat.mul_comm]

/-- A byte `0x88` on the line is two LED "0" bits. -/
theorem msbFirst_0x88 : msbFirst 0x88 = (List.replicate 2 (symbolBits false)).flatten := by decide

/-- Bytes `0x88` on the line are LED "0" bits, two a byte (R164). -/
theorem lineBits_replicate_0x88 (n : Nat) :
    lineBits (List.replicate n 0x88) = (List.replicate (2 * n) (symbolBits false)).flatten :=
  calc
    lineBits (List.replicate n 0x88) = (List.replicate n (msbFirst 0x88)).flatten := List.flatMap_replicate
    _ = (List.replicate n (List.replicate 2 (symbolBits false))).flatten.flatten := by
      rw [msbFirst_0x88, List.flatten_flatten, List.map_replicate]
    _ = (List.replicate (2 * n) (symbolBits false)).flatten := by
      rw [List.flatten_replicate_replicate, Nat.mul_comm]

/-- The wrong order of R158 sends the bits of a byte reversed. -/
theorem lsbFirst_eq_reverse (b : Byte) : lsbFirst b = (msbFirst b).reverse := rfl

/-- A symbol reversed starts low and ends high (R158). -/
theorem reverse_symbolBits (x : Bool) : (symbolBits x).reverse = [false, false, x, true] := by
  cases x <;> rfl

@[simp] theorem resetPreamble_length (env : EnvParams) : (resetPreamble env).length = env.resetPreambleBytes :=
  List.length_replicate

/-- An attempt is defined where the Encoded Buffer is, and sends the preamble before it (R154, R155). -/
theorem attemptBytes_of_encBuf {env : EnvParams} {pixels data : List Byte} (h : encBuf pixels env.nPixels = some data) :
    attemptBytes env pixels = some (resetPreamble env ++ data) := by
  simp only [attemptBytes, h]

/-- The clock condition as one on fractions, with R159's denominators cleared. -/
theorem clockKeepsUp_iff (env : EnvParams) (fClk : Nat) :
    clockKeepsUp env fClk ↔ 5 * (env.spiBitRate : ℚ) ≤ 32 * (fClk : ℚ) := by
  unfold clockKeepsUp cyclesPerByte spiBitsPerInputByte
  norm_cast

/-- The upstream condition as one on fractions, with R159's denominator cleared. -/
theorem upstreamKeepsUp_iff (env : EnvParams) (bytesPerSecond : Nat) :
    upstreamKeepsUp env bytesPerSecond ↔ (env.spiBitRate : ℚ) ≤ 32 * (bytesPerSecond : ℚ) := by
  unfold upstreamKeepsUp spiBitsPerInputByte
  norm_cast

end Sys2Proof.Machine
end

section
/-! The statements of 70_reset_and_hazards.md, settled. -/

namespace Sys2Proof

open Sys2Proof.Machine

/-- Settles O10: `rst` masks both handshakes and selects RESET, whose effect does not read the state it replaces. -/
theorem resetCycle : Obligations.ResetCycle := by
  intro s hr
  obtain ⟨unready, invalid⟩ := outputs_of_rst hr
  obtain ⟨noAccept, noEmit⟩ := no_handshake_of_rst hr
  exact ⟨unready, invalid, noAccept, noEmit, operation_of_rst hr, step_of_rst hr⟩

/-- Settles O11: RESET leaves the block empty, and an empty block is ready and performs IDLE or LOAD. -/
theorem emptyAndReadyAfterReset : Obligations.EmptyAndReadyAfterReset := by
  intro s t hr h
  obtain rfl := next_unique (step_of_rst hr) h
  refine ⟨rfl, rfl, rfl, fun hrt => ?_⟩
  obtain ⟨ready, invalid⟩ := outputs_of_empty hrt rfl
  exact ⟨ready, invalid, operation_of_empty hrt rfl⟩

/-- Settles O56: what the block delivers is a code byte, and bit 7 of `0x00` is not set. -/
theorem zeroBytesAreNotIdle : Obligations.ZeroBytesAreNotIdle := by
  refine ⟨fun s _ => ?_, flatMap_encByte_replicate_zero, flatMap_encByte_replicate_zero 80, lineBits_replicate_0x88⟩
  obtain ⟨bit7, bit3⟩ : s.outputs.outData.getLsbD 7 = true ∧ s.outputs.outData.getLsbD 3 = true :=
    bits_of_isCodeByte (isCodeByte_encPair s.hold s.p)
  refine ⟨bit7, bit3, fun zero => ?_⟩
  rw [zero] at bit7
  exact absurd bit7 (by decide)

/-- Settles O12: RESET overwrites every element of the block, so the free power-on values are gone after one edge. -/
theorem oneResetCycleAfterPowerOn : Obligations.OneResetCycleAfterPowerOn :=
  fun _ _ hr => step_of_rst hr

/-- Settles O55: a code byte reversed is its two symbols reversed, in the other order. -/
theorem leastSignificantFirstReversesSymbols : Obligations.LeastSignificantFirstReversesSymbols :=
  ⟨reverse_symbolBits, fun b p => by rw [lsbFirst_eq_reverse, msbFirst_encPair, List.reverse_append]⟩

/-- Settles O57: the preamble is as long as its parameter says, and the Encoded Buffer follows it. -/
theorem attemptIsPreambleThenData : Obligations.AttemptIsPreambleThenData := by
  intro env pixels data h
  refine ⟨_, attemptBytes_of_encBuf h, List.take_left' (resetPreamble_length env),
    List.drop_left' (resetPreamble_length env), ?_⟩
  rw [List.length_append, resetPreamble_length, encBuf_length h]

/-- Settles O58: clearing the denominators of R159's fractions gives the whole-number conditions. -/
theorem rateConditions : Obligations.RateConditions := by
  intro env fClk upstream
  rw [clockKeepsUp_iff, upstreamKeepsUp_iff]
  refine ⟨?_, ?_, ?_⟩
  · rw [div_le_iff₀ (by norm_num)]
    constructor <;> intro h <;> linarith
  · rw [div_le_iff₀ (by norm_num)]
    constructor <;> intro h <;> linarith
  · rw [div_le_iff₀ (by norm_num), mul_comm]

end Sys2Proof
end
